-- ==== Sys2Proof/Word.lean ====
section
/-! DEFINITION. The word types of the block: bytes and the 32-bit words of its registers and commands (00_scope.md R8: every
value is an unsigned integer). -/

namespace Sys2Proof

/-- A byte: a symbol of the alphabet (00_scope.md R7) or a byte of a buffer. -/
abbrev Byte := BitVec 8

/-- A 32-bit word: a register, a window word, or a command word. -/
abbrev Word := BitVec 32

end Sys2Proof
end

