-- ==== Sys2Proof/Config.lean ====
section
/-! DEFINITION. The constants and parameters of 00_scope.md R6 and R7, and the free values: constants with no body, so that
nothing in Lean can evaluate them and a claim holds whatever they are (93_implementation_defined.md, U1 to U3). -/

namespace Sys2Proof

namespace Config

/-- FT_ENTRIES (00_scope.md R7): the capacity of the FrequencyTable. -/
def ftEntries : Nat := 256

/-- ARENA_NODES = 2·256 − 1 (00_scope.md R7). -/
def arenaNodes : Nat := 511

/-- MAX_CODE_LEN (00_scope.md R7). -/
def maxCodeLen : Nat := 32

/-- MIN_CODE_LEN (00_scope.md R7). -/
def minCodeLen : Nat := 1

/-- TRIE_NODES = 1 + 256·32 (00_scope.md R7): the most nodes a decode trie can have. -/
def trieNodes : Nat := 8193

/-- The largest legal BUF_BYTES (00_scope.md R6). -/
def maxBufBytes : Nat := 65536

/-- Block offset of the SRC buffer (20_memory.md R61). -/
def srcBase : Nat := 0x10000

/-- Block offset of the DST buffer (20_memory.md R61). -/
def dstBase : Nat := 0x20000

/-- FREE VALUE (93_implementation_defined.md U1, U2; log entry 4): the byte that draw number `draw` gives to the SRC or DST byte
at block offset `offset`. -/
opaque freeByte (draw offset : Nat) : Byte

/-- FREE VALUE (93_implementation_defined.md U3; log entry 5): the word that draw number `draw` gives to a read while
BUSY = 1. -/
opaque freeWord (draw : Nat) : Word

/-- FREE VALUE (20_memory.md R60, 92_eei_decisions.md D32; log entry 8): BASE, the platform's address of block offset 0. No step
of the block reads it, because the slave port carries block offsets (10_state.md R46). -/
opaque base : Nat

/-- The address at which the platform's host finds the block offset `offset` (20_memory.md R60). -/
def platformAddress (offset : BitVec 18) : Nat := base + offset.toNat

end Config

/-- The implementation parameter of 00_scope.md R6. It is fixed for one machine; State carries it so that every legal value is a
machine of the model (log entry 7). -/
structure Params where
  /-- BUF_BYTES: the capacity in bytes of each of SRC and DST. -/
  bufBytes : Nat
  deriving DecidableEq, Repr

end Sys2Proof
end

