-- ==== Sys2Proof/Syntax.lean ====
section
/-! DEFINITION. The six commands of 30_encoding.md R82, one constructor for each row of spec/opcode_table.json. No command word
carries an operand (30_encoding.md R84). -/

namespace Sys2Proof

/-- A command of the block (30_encoding.md R82). -/
inductive Instr where
  | nop
  | clear
  | buildTree
  | assignCodes
  | encode
  | decode
  deriving DecidableEq, Repr

end Sys2Proof
end

