-- ==== Sys2Proof/WellFormed.lean ====
section
/-! DEFINITION. What is well formed: an instruction (always, for it has no operand), a command word, the parameters. -/

namespace Sys2Proof

/-- A command has no operand field that could hold an illegal value (30_encoding.md R84), so every term of `Instr` is well
formed. -/
def Instr.wellFormed : Instr → Bool
  | .nop => true
  | .clear => true
  | .buildTree => true
  | .assignCodes => true
  | .encode => true
  | .decode => true

/-- A command word is legal when its MBZ field, bits 31:4, is zero and its OPCODE, bits 3:0, is below 6 (30_encoding.md R81,
R83). -/
def legalCommand (w : Word) : Bool :=
  w.extractLsb' 4 28 == 0 && decide ((w.extractLsb' 0 4).toNat < 6)

/-- The legal range of BUF_BYTES: 1 ≤ BUF_BYTES ≤ 65536 (00_scope.md R6). -/
def Params.wellFormed (p : Params) : Bool :=
  decide (1 ≤ p.bufBytes) && decide (p.bufBytes ≤ Config.maxBufBytes)

end Sys2Proof
end

