-- ==== Sys2Proof/Decode.lean ====
section
/-! DEFINITION. The decoder of command words (30_encoding.md R81 to R83), total on any bytes and rejecting by name, and after it
the encoder, written from the same opcode map (R82). -/

namespace Sys2Proof

/-- Why bytes are no command. -/
inductive DecodeReject where
  /-- Fewer than the four bytes of a command word (30_encoding.md R86). -/
  | truncated
  /-- Some bit of MBZ, bits 31:4, is set (30_encoding.md R83). -/
  | mbzNotZero (w : Word)
  /-- OPCODE is one of 0x6..0xF (30_encoding.md R82, R83). -/
  | reservedOpcode (op : BitVec 4)
  deriving DecidableEq, Repr

/-- The OPCODE field, bits 3:0 (30_encoding.md R81). -/
def opcodeField (w : Word) : BitVec 4 := w.extractLsb' 0 4

/-- The MBZ field, bits 31:4 (30_encoding.md R81). -/
def mbzField (w : Word) : BitVec 28 := w.extractLsb' 4 28

/-- The opcode map of 30_encoding.md R82. -/
def instrOfOpcode (op : BitVec 4) : Except DecodeReject Instr :=
  match op.toNat with
  | 0x0 => .ok .nop
  | 0x1 => .ok .clear
  | 0x2 => .ok .buildTree
  | 0x3 => .ok .assignCodes
  | 0x4 => .ok .encode
  | 0x5 => .ok .decode
  | _ => .error (.reservedOpcode op)

/-- The decode of 30_encoding.md R81, after acceptance. -/
def decodeWord (w : Word) : Except DecodeReject Instr :=
  if mbzField w ≠ 0 then .error (.mbzNotZero w) else instrOfOpcode (opcodeField w)

/-- A 32-bit word from its four bytes, byte 0 being bits 7:0 (20_memory.md R65). -/
def wordOfBytes (b0 b1 b2 b3 : Byte) : Word :=
  BitVec.ofNat 32 (b0.toNat + 2 ^ 8 * b1.toNat + 2 ^ 16 * b2.toNat + 2 ^ 24 * b3.toNat)

/-- Byte q of a word, for q = 0..3: bits 8q+7 : 8q (20_memory.md R65). -/
def byteOfWord (w : Word) (q : Nat) : Byte := w.extractLsb' (8 * q) 8

/-- The four bytes of a word, lowest offset first. -/
def wordBytes (w : Word) : List Byte := [byteOfWord w 0, byteOfWord w 1, byteOfWord w 2, byteOfWord w 3]

/-- Decode the command at the head of a list of bytes, and give the bytes after it. -/
def decodeBytes : List Byte → Except DecodeReject (Instr × List Byte)
  | b0 :: b1 :: b2 :: b3 :: rest =>
    match decodeWord (wordOfBytes b0 b1 b2 b3) with
    | .ok i => .ok (i, rest)
    | .error r => .error r
  | _ => .error .truncated

/-- OPCODE of a command (30_encoding.md R82). -/
def opcodeOf : Instr → BitVec 4
  | .nop => 0x0
  | .clear => 0x1
  | .buildTree => 0x2
  | .assignCodes => 0x3
  | .encode => 0x4
  | .decode => 0x5

/-- The command word: OPCODE in bits 3:0 and zero in bits 31:4 (30_encoding.md R81). -/
def encode (i : Instr) : Word := (opcodeOf i).setWidth 32

/-- The command word of a table row: its low `nbits` bits are those of `w`, every bit above is 0. -/
def tableWord (nbits w : Nat) : Word := BitVec.ofNat 32 (w % 2 ^ nbits)

/-- What the decoder reads from an instruction whose bits are `w`, numbered as spec/opcode_table.json numbers them. The word is
laid out as its register holds it, byte 0 first (20_memory.md R65), and given to the decoder. -/
def decodeTableWord (nbits w : Nat) : Option Instr :=
  match decodeBytes (wordBytes (tableWord nbits w)) with
  | .ok (i, _) => some i
  | .error _ => none

end Sys2Proof
end

