-- ==== Sys2Proof/Machine/State.lean ====
section
/-! DEFINITION. The state of the block as plain data (10_state.md), the events of its ports, the error causes, what can stop a
step of the model, and the state right after reset. -/

namespace Sys2Proof.Machine

/-- SEQ (10_state.md R20). BUSY carries the accepted command word, which the error report of 30_encoding.md R81 still needs
(log entry 17). -/
inductive Seq where
  | init
  | idle
  | busy (command : Word)
  deriving DecidableEq, Repr

/-- An entry of the FrequencyTable (10_state.md R35). -/
structure FtEntry where
  sym : Byte
  cnt : Word
  deriving DecidableEq, Repr

/-- An entry of the CodeTable (10_state.md R36). -/
structure CtEntry where
  valid : Bool
  len : BitVec 6
  bits : Word
  deriving DecidableEq, Repr

/-- A node of the arena that is not EMPTY (10_state.md R37): TAG is LEAF or INTERNAL, and the fields are those that the rule gives
to that tag. The other fields of the node are 0. -/
inductive Node where
  | leaf (symbol : Byte) (freq : BitVec 40)
  | internal (freq : BitVec 40) (left right : BitVec 9)
  deriving DecidableEq, Repr

/-- The fields of ERR_INFO (10_state.md R26). -/
structure ErrInfo where
  kind : BitVec 4
  cause : BitVec 8
  op : BitVec 4
  deriving DecidableEq, Repr

/-- The error kinds (60_exceptions.md R210). -/
inductive ErrorKind where
  | inputError
  | lookupError
  | structuralError
  | decodeError
  | commandError
  deriving DecidableEq, Repr

/-- The error causes (60_exceptions.md R211). -/
inductive Cause where
  | emptyInput
  | ftEmpty
  | ftZeroCount
  | ftDupSymbol
  | symbolNotInTable
  | codeTooLong
  | badCodeEntry
  | noMatch
  | partialCode
  | tableNotPrefixFree
  | illegalCmd
  | badFtLen
  | badSrcLen
  | noTree
  | dstOverflow
  deriving DecidableEq, Repr

/-- What `raise Kind(CAUSE, arg)` carries (00_scope.md R10); the kind is a function of the cause (60_exceptions.md R211). -/
structure Raise where
  cause : Cause
  arg : Word
  deriving DecidableEq, Repr

/-- The width n of a host access, in {1, 2, 4} bytes (20_memory.md R62). -/
inductive Width where
  | w1
  | w2
  | w4
  deriving DecidableEq, Repr

/-- An event of the block's ports and agents. A list of them says which agent moves next (60_exceptions.md R228; log entry 1). -/
inductive Input where
  /-- `MemRead(addr, n)` by the host (20_memory.md R62). -/
  | read (addr : BitVec 18) (n : Width)
  /-- `MemWrite(addr, n, v)` by the host (20_memory.md R62); only the low n bytes of `v` count (log entry 16). -/
  | write (addr : BitVec 18) (n : Width) (v : Word)
  /-- The sequencer moves: it ends INIT or completes the command in progress (60_exceptions.md R228). -/
  | sequencer
  /-- rst_n goes low (70_reset_and_hazards.md R240). -/
  | resetLow
  /-- rst_n goes high (70_reset_and_hazards.md R240). -/
  | resetHigh
  deriving DecidableEq, Repr

/-- The slave port's answer to the last host transaction (20_memory.md R62). -/
inductive Response where
  /-- No transaction since reset. -/
  | none
  /-- A write returned OK. -/
  | ok
  /-- A read returned this value of n bytes. -/
  | data (v : Word)
  /-- The transaction got a bus error (20_memory.md R64). -/
  | busError
  deriving DecidableEq, Repr

/-- Why a step of the model stops. -/
inductive Fault where
  /-- Raised by a step whose next event is a host transaction while rst_n is low. "While rst_n is low, the host must issue no
  transaction. A model has no host step while reset is asserted" (70_reset_and_hazards.md R240). Safe (log entry 9). -/
  | transactionInReset
  /-- Raised by ASSIGN_CODES when TREE_VALID = 1 and the walk meets an EMPTY node or a path longer than the arena: the walk of
  41_code_assigner.md R121 is then defined by no rule. No run reaches such a state. Safe (log entry 11). -/
  | arenaIsNoTree
  deriving DecidableEq, Repr

/-- Why a step has no meaning. -/
inductive Refusal where
  /-- Raised by the dispatcher alone, for an instruction without a meaning yet. Safe. -/
  | notModelled (mnemonic : String)
  deriving DecidableEq, Repr

/-- The state of the block. -/
structure State where
  /-- BUF_BYTES and the parameters of the machine (00_scope.md R6). No step changes them. -/
  params : Params
  /-- The level of the rst_n pin (10_state.md R46). -/
  rstN : Bool
  /-- SEQ (10_state.md R20); STATUS.BUSY is computed from it. -/
  seq : Seq
  /-- CUR_OP (10_state.md R20). -/
  curOp : BitVec 4
  /-- STATUS.DONE (10_state.md R23). -/
  done : Bool
  /-- STATUS.ERR (10_state.md R23). -/
  err : Bool
  /-- STATUS.OVERRUN (10_state.md R23). -/
  overrun : Bool
  /-- STATUS.TREE_VALID (10_state.md R23). -/
  treeValid : Bool
  /-- CTRL.IRQ_EN (10_state.md R25). -/
  irqEn : Bool
  /-- ERR_INFO (10_state.md R26). -/
  errInfo : ErrInfo
  /-- ERR_ARG (10_state.md R27). -/
  errArg : Word
  /-- FT_LEN (10_state.md R28). -/
  ftLen : BitVec 9
  /-- SRC_LEN (10_state.md R29). -/
  srcLen : BitVec 17
  /-- PAD_IN (10_state.md R30). -/
  padIn : BitVec 3
  /-- OUT_LEN (10_state.md R31). -/
  outLen : BitVec 17
  /-- PAD_OUT (10_state.md R32). -/
  padOut : BitVec 3
  /-- TOTAL_BITS (10_state.md R33). -/
  totalBits : Word
  /-- NODE_COUNT (10_state.md R39). -/
  nodeCount : BitVec 9
  /-- ROOT (10_state.md R40). -/
  root : BitVec 9
  /-- FT (10_state.md R35): the entries that differ from {sym = 0, cnt = 0}, by rising index (log entry 10). -/
  ft : List (Nat × FtEntry)
  /-- CT (10_state.md R36): the entries that differ from {valid = 0, len = 0, bits = 0}, by rising symbol (log entry 10). -/
  ct : List (Nat × CtEntry)
  /-- ARENA (10_state.md R37): nodes 0, 1, … up to the last one that is not EMPTY; every later node is EMPTY (log entry 10). -/
  arena : List Node
  /-- SRC and DST (10_state.md R38): the specified bytes, by rising block offset. A byte that is not listed is UNSPECIFIED
  (log entry 4). -/
  mem : List Host.Cell
  /-- The model's own: the number of the draw that made every SRC byte unspecified (log entry 4). -/
  srcDraw : Nat
  /-- The model's own: the number of the draw that made every DST byte unspecified (log entry 4). -/
  dstDraw : Nat
  /-- The model's own: the number of the next draw (log entries 4 and 5). -/
  draws : Nat
  /-- The events to come, oldest first (log entry 1). -/
  inputs : List Input
  /-- The slave port's answer to the last transaction (20_memory.md R62, log entry 3). -/
  resp : Response
  deriving DecidableEq, Repr

/-- The state right after reset, on entry to INIT (70_reset_and_hazards.md R241), for the default BUF_BYTES of 65536
(log entries 2 and 7). SRC and DST hold no specified byte. -/
def State.reset : State where
  params := ⟨65536⟩
  rstN := true
  seq := .init
  curOp := 0
  done := false
  err := false
  overrun := false
  treeValid := false
  irqEn := false
  errInfo := ⟨0, 0, 0⟩
  errArg := 0
  ftLen := 0
  srcLen := 0
  padIn := 0
  outLen := 0
  padOut := 0
  totalBits := 0
  nodeCount := 0
  root := 0
  ft := []
  ct := []
  arena := []
  mem := []
  srcDraw := 0
  dstDraw := 1
  draws := 2
  inputs := []
  resp := .none

end Sys2Proof.Machine
end

