-- ==== Sys2Proof/Machine/Flags.lean ====
section
/-! DEFINITION. The status flags of 10_state.md R23 and R48, the irq output (R45), and the error codes of 60_exceptions.md R210
and R211. -/

namespace Sys2Proof.Machine

/-- A Bool as the number of its bit. -/
def bitNat (b : Bool) : Nat := if b then 1 else 0

/-- STATUS.BUSY: 1 while SEQ is INIT or BUSY (10_state.md R23). -/
def State.busy (s : State) : Bool :=
  match s.seq with
  | .init => true
  | .idle => false
  | .busy _ => true

/-- The word that STATUS reads (10_state.md R23). -/
def statusWord (s : State) : Word :=
  BitVec.ofNat 32
    (bitNat s.busy + 2 * bitNat s.done + 4 * bitNat s.err + 8 * bitNat s.overrun + 16 * bitNat s.treeValid)

/-- The irq output: CTRL.IRQ_EN ∧ (STATUS.DONE ∨ STATUS.ERR), at every instant (10_state.md R45). -/
def State.irq (s : State) : Bool := s.irqEn && (s.done || s.err)

/-- A write to STATUS: each of DONE, ERR and OVERRUN is cleared where the written bit is 1; the other bits are ignored
(10_state.md R24). It is also how the host acknowledges an error (60_exceptions.md R220). -/
def writeStatus (v : Word) (s : State) : State :=
  { s with
    done := s.done && !v.getLsbD 1
    err := s.err && !v.getLsbD 2
    overrun := s.overrun && !v.getLsbD 3 }

/-- The word that CTRL reads (10_state.md R25). -/
def ctrlWord (s : State) : Word := BitVec.ofNat 32 (bitNat s.irqEn)

/-- A write to CTRL (10_state.md R25). -/
def writeCtrl (v : Word) (s : State) : State := { s with irqEn := v.getLsbD 0 }

/-- ERR_INFO.KIND of an error kind (60_exceptions.md R210). -/
def ErrorKind.code : ErrorKind → BitVec 4
  | .inputError => 1
  | .lookupError => 2
  | .structuralError => 3
  | .decodeError => 4
  | .commandError => 5

/-- The kind of a cause (60_exceptions.md R211). -/
def Cause.kind : Cause → ErrorKind
  | .emptyInput => .inputError
  | .ftEmpty => .inputError
  | .ftZeroCount => .inputError
  | .ftDupSymbol => .inputError
  | .symbolNotInTable => .lookupError
  | .codeTooLong => .structuralError
  | .badCodeEntry => .structuralError
  | .noMatch => .decodeError
  | .partialCode => .decodeError
  | .tableNotPrefixFree => .decodeError
  | .illegalCmd => .commandError
  | .badFtLen => .commandError
  | .badSrcLen => .commandError
  | .noTree => .commandError
  | .dstOverflow => .commandError

/-- ERR_INFO.CAUSE of a cause (60_exceptions.md R211). -/
def Cause.code : Cause → BitVec 8
  | .emptyInput => 0x11
  | .ftEmpty => 0x12
  | .ftZeroCount => 0x13
  | .ftDupSymbol => 0x14
  | .symbolNotInTable => 0x21
  | .codeTooLong => 0x31
  | .badCodeEntry => 0x32
  | .noMatch => 0x41
  | .partialCode => 0x42
  | .tableNotPrefixFree => 0x43
  | .illegalCmd => 0x51
  | .badFtLen => 0x52
  | .badSrcLen => 0x53
  | .noTree => 0x54
  | .dstOverflow => 0x55

/-- ERR_INFO of no error: every field 0 (10_state.md R26). -/
def noError : ErrInfo := ⟨0, 0, 0⟩

/-- What an error writes to ERR_INFO: KIND and CAUSE of its cause, and OP (60_exceptions.md R214). -/
def Cause.errInfo (c : Cause) (op : BitVec 4) : ErrInfo := ⟨c.kind.code, c.code, op⟩

/-- The word that ERR_INFO reads: KIND in bits 3:0, CAUSE in bits 15:8, OP in bits 19:16 (10_state.md R26). -/
def errInfoWord (e : ErrInfo) : Word :=
  BitVec.ofNat 32 (e.kind.toNat + 2 ^ 8 * e.cause.toNat + 2 ^ 16 * e.op.toNat)

end Sys2Proof.Machine
end

