-- ==== Sys2Proof/Machine/Sparse.lean ====
section
/-! DEFINITION. Sparse tables: lists of (key, value) pairs by rising key. FT, CT and the memory of SRC and DST are held in this
one form (log entries 4 and 10). -/

namespace Sys2Proof.Machine.Sparse

/-- The value listed at a key. -/
def lookup {α : Type} : List (Nat × α) → Nat → Option α
  | [], _ => none
  | (j, v) :: m, k => if j = k then some v else lookup m k

/-- The table without a key. -/
def erase {α : Type} : List (Nat × α) → Nat → List (Nat × α)
  | [], _ => []
  | (j, v) :: m, k => if j = k then erase m k else (j, v) :: erase m k

/-- Put a pair before the first larger key. -/
def insert {α : Type} : List (Nat × α) → Nat → α → List (Nat × α)
  | [], k, v => [(k, v)]
  | (j, w) :: m, k, v => if k < j then (k, v) :: (j, w) :: m else (j, w) :: insert m k v

/-- Set a key to a value. -/
def store {α : Type} (m : List (Nat × α)) (k : Nat) (v : α) : List (Nat × α) := insert (erase m k) k v

/-- Set a key to a value, where an unlisted key reads as `d`: writing `d` removes the entry. -/
def storeOr {α : Type} [DecidableEq α] (d : α) (m : List (Nat × α)) (k : Nat) (v : α) : List (Nat × α) :=
  if v = d then erase m k else store m k v

/-- The canonical form: keys strictly rising. -/
def sorted {α : Type} : List (Nat × α) → Bool
  | [] => true
  | (j, _) :: m => m.all (fun c => decide (j < c.1)) && sorted m

/-- The canonical form with default `d`: keys strictly rising and below `n`, and no entry equal to `d`. -/
def wfOr {α : Type} [DecidableEq α] (d : α) (n : Nat) (m : List (Nat × α)) : Bool :=
  sorted m && m.all (fun c => decide (c.1 < n) && decide (c.2 ≠ d))

end Sys2Proof.Machine.Sparse
end

