-- ==== Sys2Proof/Machine/Ops.lean ====
section
/-! DEFINITION. The named operations over the memories and registers, the acceptance of a command, its two completions (the
error completion is the block's way to take an exception, 60_exceptions.md R214), and reset. -/

namespace Sys2Proof.Machine

/-! ## FT, CT and ARENA -/

/-- FT[i] (10_state.md R35). -/
def ftAt (ft : List (Nat × FtEntry)) (i : Nat) : FtEntry := (Sparse.lookup ft i).getD ⟨0, 0⟩

/-- FT[i] <- e. -/
def ftSet (ft : List (Nat × FtEntry)) (i : Nat) (e : FtEntry) : List (Nat × FtEntry) := Sparse.storeOr ⟨0, 0⟩ ft i e

/-- The absent entry of the CodeTable, {valid = 0, len = 0, bits = 0}. -/
def noCode : CtEntry := ⟨false, 0, 0⟩

/-- CT[s] (10_state.md R36). -/
def ctAt (ct : List (Nat × CtEntry)) (s : Byte) : CtEntry := (Sparse.lookup ct s.toNat).getD noCode

/-- CT[s] <- e. -/
def ctSet (ct : List (Nat × CtEntry)) (s : Byte) (e : CtEntry) : List (Nat × CtEntry) :=
  Sparse.storeOr noCode ct s.toNat e

/-- ARENA[n], none where the node is EMPTY (10_state.md R37). -/
def nodeAt (arena : List Node) (n : Nat) : Option Node := arena[n]?

/-- The node frequency freq(n) (40_tree_builder.md R101). -/
def Node.freq : Node → BitVec 40
  | .leaf _ f => f
  | .internal f _ _ => f

/-! ## The memory of SRC and DST -/

namespace Memory

/-- The canonical form of the memory: block offsets strictly rising. A byte that is not listed reads as no byte of its own but as
a free draw, so no listed byte is one that could be left out (log entry 4). -/
def wf (m : List Host.Cell) : Bool := Sparse.sorted m

/-- The listed offsets lie in SRC or DST (20_memory.md R61). -/
def inBuffers (p : Params) (m : List Host.Cell) : Bool :=
  m.all fun c =>
    (decide (Config.srcBase ≤ c.1) && decide (c.1 < Config.srcBase + p.bufBytes)) ||
      (decide (Config.dstBase ≤ c.1) && decide (c.1 < Config.dstBase + p.bufBytes))

/-- Write one byte at a block offset. -/
def writeByte (m : List Host.Cell) (a : Nat) (b : Byte) : List Host.Cell := Sparse.store m a b

/-- Write bytes at rising offsets from `a` on. -/
def writeBytes (m : List Host.Cell) (a : Nat) : List Byte → List Host.Cell
  | [] => m
  | b :: bs => writeBytes (writeByte m a b) (a + 1) bs

/-- The memory without its cells of DST. -/
def dropDst : List Host.Cell → List Host.Cell
  | [] => []
  | c :: m => if c.1 < Config.dstBase then c :: dropDst m else dropDst m

end Memory

/-- What an unlisted byte of SRC or DST reads as: the byte that the last draw of its buffer gave it
(93_implementation_defined.md U1, U2; log entry 4). -/
def unlistedByte (s : State) (a : Nat) : Byte :=
  Config.freeByte (if a < Config.dstBase then s.srcDraw else s.dstDraw) a

/-- Read the byte of SRC or DST at a block offset (10_state.md R38). -/
def readByte (s : State) (a : Nat) : Byte := (Sparse.lookup s.mem a).getD (unlistedByte s a)

/-- Every DST byte becomes UNSPECIFIED: a new draw (42_bit_packer.md R145, 44_decode_trie.md R186). -/
def unspecifyDst (s : State) : State :=
  { s with mem := Memory.dropDst s.mem, dstDraw := s.draws, draws := s.draws + 1 }

/-! ## Acceptance and completion -/

/-- The acceptance of the command word `w` (60_exceptions.md R218) with the first line of the decode, CUR_OP <- w[3:0]
(30_encoding.md R81; log entry 13). -/
def acceptCommand (w : Word) (s : State) : State :=
  { s with
    done := false
    err := false
    errInfo := noError
    errArg := 0
    seq := .busy w
    curOp := w.extractLsb' 0 4 }

/-- `complete()` (60_exceptions.md R217). ERR stays as acceptance left it (log entry 15). -/
def completeOk (s : State) : State := { s with done := true, seq := .idle }

/-- The error completion, `raise` (60_exceptions.md R214), after the command's own error outputs. DONE stays as acceptance left
it (log entry 15). -/
def completeErr (r : Raise) (s : State) : State :=
  { s with
    errInfo := r.cause.errInfo s.curOp
    errArg := r.arg
    err := true
    seq := .idle }

/-- The error outputs of BUILD_TREE: no tree (40_tree_builder.md R105). -/
def dropTree (s : State) : State := { s with arena := [], nodeCount := 0, root := 0, treeValid := false }

/-- The outputs of a successful BUILD_TREE (40_tree_builder.md R102). -/
def setTree (arena : List Node) (root : BitVec 9) (s : State) : State :=
  { s with arena := arena, nodeCount := BitVec.ofNat 9 arena.length, root := root, treeValid := true }

/-- CT as a whole, the output of ASSIGN_CODES (41_code_assigner.md R121, R126). -/
def setCodeTable (ct : List (Nat × CtEntry)) (s : State) : State := { s with ct := ct }

/-- The error outputs of ENCODE and DECODE (42_bit_packer.md R145, 44_decode_trie.md R186). -/
def dropOutput (s : State) : State := unspecifyDst { s with outLen := 0, padOut := 0, totalBits := 0 }

/-- The outputs of a successful ENCODE or DECODE: the bytes at DST[0..] and the three length registers
(42_bit_packer.md R141, 44_decode_trie.md R183). -/
def setOutput (bytes : List Byte) (pad : Nat) (bits : Nat) (s : State) : State :=
  { s with
    mem := Memory.writeBytes s.mem Config.dstBase bytes
    outLen := BitVec.ofNat 17 bytes.length
    padOut := BitVec.ofNat 3 pad
    totalBits := BitVec.ofNat 32 bits }

/-- The effect of CLEAR (45_control.md R201). CUR_OP stays (log entry 13). -/
def clearCodec (s : State) : State :=
  { s with
    ft := []
    ct := []
    arena := []
    ftLen := 0
    srcLen := 0
    padIn := 0
    outLen := 0
    padOut := 0
    totalBits := 0
    nodeCount := 0
    root := 0
    treeValid := false }

/-! ## Reset -/

/-- rst_n goes low: a command in progress stops without a completion, and its DST bytes become UNSPECIFIED
(70_reset_and_hazards.md R240; log entry 9). -/
def assertReset (s : State) : State :=
  match s.seq with
  | .busy _ => { unspecifyDst s with rstN := false, seq := .idle }
  | .init => { s with rstN := false, seq := .idle }
  | .idle => { s with rstN := false }

/-- rst_n goes high: the entry to INIT (70_reset_and_hazards.md R241). Every register and table takes its value of
`State.reset`, and SRC and DST are drawn anew. -/
def enterInit (s : State) : State :=
  { State.reset with
    params := s.params
    srcDraw := s.draws
    dstDraw := s.draws + 1
    draws := s.draws + 2
    inputs := s.inputs }

/-- The end of INIT (70_reset_and_hazards.md R241). -/
def endInit (s : State) : State := { s with seq := .idle }

/-- An edge of rst_n; an event that does not change the pin's level is no edge (log entry 9). -/
def resetLow (s : State) : State := if s.rstN then assertReset s else s

/-- The rising edge of rst_n. -/
def resetHigh (s : State) : State := if s.rstN then s else enterInit s

end Sys2Proof.Machine
end

