-- ==== Sys2Proof/Machine/Operands.lean ====
section
/-! DEFINITION. What the commands read their operands as (30_encoding.md R84): bytes of SRC, entries of FT, bit strings of codes,
and the bits of the packed format (20_memory.md R69, 43_bit_unpacker.md R160, R161). -/

namespace Sys2Proof.Machine

/-- ceil(a/8) (00_scope.md R8). -/
def ceilDiv8 (a : Nat) : Nat := (a + 7) / 8

/-- SRC[i] (10_state.md R38). -/
def srcByte (s : State) (i : Nat) : Byte := readByte s (Config.srcBase + i)

/-- SRC[0..n−1]. -/
def srcBytes (s : State) (n : Nat) : List Byte := (List.range n).map (srcByte s)

/-- FT[0..k−1] (10_state.md R35). -/
def ftEntries (ft : List (Nat × FtEntry)) (k : Nat) : List FtEntry := (List.range k).map (ftAt ft)

/-- The bit string of a code: c_j = bits[len−1−j] for j = 0..len−1 (00_scope.md R9). -/
def codeBits (e : CtEntry) : List Bool :=
  (List.range e.len.toNat).map fun j => e.bits.getLsbD (e.len.toNat - 1 - j)

/-- bit(t) of the packed format: b_t for t < T, else 0 (20_memory.md R69). -/
def packedBit (b : List Bool) (t : Nat) : Bool := b.getD t false

/-- P[m] of the packed format: Σ_{q=0}^{7} bit(8m+q)·2^(7−q) (20_memory.md R69). -/
def packedByte (b : List Bool) (m : Nat) : Byte :=
  BitVec.ofNat 8 (((List.range 8).map fun q => bitNat (packedBit b (8 * m + q)) * 2 ^ (7 - q)).sum)

/-- The packed format of a bit string: P[0..ceil(T/8)−1] (20_memory.md R69). -/
def packBits (b : List Bool) : List Byte := (List.range (ceilDiv8 b.length)).map (packedByte b)

/-- The pad length of T bits: (8 − T mod 8) mod 8 (42_bit_packer.md R143). -/
def padLength (t : Nat) : Nat := (8 - t % 8) % 8

/-- nbits: the number of bits DECODE walks (43_bit_unpacker.md R160). -/
def nbits (s : State) : Nat := if s.srcLen.toNat = 0 then 0 else 8 * s.srcLen.toNat - s.padIn.toNat

/-- srcbit(t) = SRC[t div 8][7 − (t mod 8)] (43_bit_unpacker.md R161). -/
def srcBit (s : State) (t : Nat) : Bool := (srcByte s (t / 8)).getLsbD (7 - t % 8)

/-- The bits DECODE walks, in order: srcbit(0..nbits−1). -/
def srcBits (s : State) : List Bool := (List.range (nbits s)).map (srcBit s)

/-- What `ValidateCT()` refuses in a valid entry: len < 1, len > 32, or bits ≥ 2^len (42_bit_packer.md R142). -/
def CtEntry.illegal (e : CtEntry) : Bool :=
  decide (e.len.toNat < Config.minCodeLen) || decide (e.len.toNat > Config.maxCodeLen) ||
    decide (e.bits.toNat ≥ 2 ^ e.len.toNat)

/-- `ValidateCT()`: the first valid entry, by ascending symbol, that is illegal (42_bit_packer.md R142). An entry that is not
listed is not valid, so the walk over the listed entries meets every valid one, in ascending order. -/
def validateCt : List (Nat × CtEntry) → Except Raise Unit
  | [] => .ok ()
  | (s, e) :: ct => if e.valid && e.illegal then .error ⟨.badCodeEntry, BitVec.ofNat 32 s⟩ else validateCt ct

end Sys2Proof.Machine
end

