-- ==== Sys2Proof/Machine/Bus.lean ====
section
/-! DEFINITION. The slave port: the address map and the host's transactions (20_memory.md), with the hazards of
70_reset_and_hazards.md R245 to R247. -/

namespace Sys2Proof.Machine

/-- The number of bytes of an access. -/
def Width.bytes : Width → Nat
  | .w1 => 1
  | .w2 => 2
  | .w4 => 4

/-- The registers of the address map (20_memory.md R61). -/
inductive Reg where
  | id
  | cmd
  | status
  | ctrl
  | errInfo
  | errArg
  | ftLen
  | srcLen
  | padIn
  | outLen
  | padOut
  | totalBits
  | nodeCount
  | root
  | paramBufBytes
  deriving DecidableEq, Repr

/-- What an access reaches (20_memory.md R61). -/
inductive Target where
  | reg (r : Reg)
  /-- FT_SYM[i] (10_state.md R35). -/
  | ftSym (i : Nat)
  /-- FT_CNT[i] (10_state.md R35). -/
  | ftCnt (i : Nat)
  /-- CT_CTRL[s] (10_state.md R36). -/
  | ctCtrl (s : Byte)
  /-- CT_BITS[s] (10_state.md R36). -/
  | ctBits (s : Byte)
  /-- Word 0..3 of ARENA[n] (10_state.md R37). -/
  | arena (n word : Nat)
  /-- The bytes of SRC from a block offset on (10_state.md R38). -/
  | src (offset : Nat)
  /-- The bytes of DST from a block offset on (10_state.md R38). -/
  | dst (offset : Nat)
  deriving DecidableEq, Repr

/-- The register at an offset (20_memory.md R61). -/
def regAt : Nat → Option Reg
  | 0x000 => some .id
  | 0x004 => some .cmd
  | 0x008 => some .status
  | 0x00C => some .ctrl
  | 0x010 => some .errInfo
  | 0x014 => some .errArg
  | 0x018 => some .ftLen
  | 0x01C => some .srcLen
  | 0x020 => some .padIn
  | 0x024 => some .outLen
  | 0x028 => some .padOut
  | 0x02C => some .totalBits
  | 0x030 => some .nodeCount
  | 0x034 => some .root
  | 0x038 => some .paramBufBytes
  | _ => none

/-- The register or window word at a 4-byte-aligned offset (20_memory.md R61). -/
def wordTarget (a : Nat) : Option Target :=
  if 0x1000 ≤ a ∧ a < 0x1800 then
    some (if a % 8 = 0 then .ftSym ((a - 0x1000) / 8) else .ftCnt ((a - 0x1000) / 8))
  else if 0x2000 ≤ a ∧ a < 0x2800 then
    some (if a % 8 = 0 then .ctCtrl (BitVec.ofNat 8 ((a - 0x2000) / 8)) else .ctBits (BitVec.ofNat 8 ((a - 0x2000) / 8)))
  else if 0x4000 ≤ a ∧ a < 0x5FF0 then some (.arena ((a - 0x4000) / 16) (a % 16 / 4))
  else
    match regAt a with
    | some r => some (.reg r)
    | none => none

/-- The target of an access of n bytes at block offset `a`, none where it is a bus error: unmapped, of a width its target does not
take, misaligned, or past the end of its buffer (20_memory.md R61, R63, R64). -/
def target (p : Params) (a : Nat) (n : Width) : Option Target :=
  if a % n.bytes ≠ 0 then none
  else if Config.srcBase ≤ a ∧ a + n.bytes ≤ Config.srcBase + p.bufBytes then some (.src a)
  else if Config.dstBase ≤ a ∧ a + n.bytes ≤ Config.dstBase + p.bufBytes then some (.dst a)
  else
    match n with
    | .w1 => none
    | .w2 => none
    | .w4 => wordTarget a

/-- The word that reads n bytes of SRC or DST from offset `a` on, little-endian (20_memory.md R65). -/
def readBuffer (s : State) (a : Nat) (n : Width) : Word :=
  BitVec.ofNat 32 (((List.range n.bytes).map fun q => (readByte s (a + q)).toNat * 2 ^ (8 * q)).sum)

/-- The bytes that a write of n bytes carries, lowest offset first (20_memory.md R65). -/
def storedBytes (v : Word) (n : Width) : List Byte := (List.range n.bytes).map (byteOfWord v)

/-- Word 0..3 of an arena node (10_state.md R37). -/
def nodeWord (n : Option Node) (word : Nat) : Word :=
  match n with
  | none => 0
  | some (.leaf symbol freq) =>
    match word with
    | 0 => BitVec.ofNat 32 (1 + 2 ^ 8 * symbol.toNat)
    | 1 => freq.extractLsb' 0 32
    | 2 => BitVec.ofNat 32 (freq.toNat / 2 ^ 32)
    | _ => 0
  | some (.internal freq left right) =>
    match word with
    | 0 => 2
    | 1 => freq.extractLsb' 0 32
    | 2 => BitVec.ofNat 32 (freq.toNat / 2 ^ 32)
    | _ => BitVec.ofNat 32 (left.toNat + 2 ^ 16 * right.toNat)

/-- The word that CT_CTRL reads (10_state.md R36). -/
def ctCtrlWord (e : CtEntry) : Word := BitVec.ofNat 32 (e.len.toNat + 2 ^ 31 * bitNat e.valid)

/-- The word that a register reads while BUSY = 0 (10_state.md R21 to R40). -/
def readReg (s : State) : Reg → Word
  | .id => 0x48554631
  | .cmd => 0
  | .status => statusWord s
  | .ctrl => ctrlWord s
  | .errInfo => errInfoWord s.errInfo
  | .errArg => s.errArg
  | .ftLen => s.ftLen.setWidth 32
  | .srcLen => s.srcLen.setWidth 32
  | .padIn => s.padIn.setWidth 32
  | .outLen => s.outLen.setWidth 32
  | .padOut => s.padOut.setWidth 32
  | .totalBits => s.totalBits
  | .nodeCount => s.nodeCount.setWidth 32
  | .root => s.root.setWidth 32
  | .paramBufBytes => (BitVec.ofNat 17 s.params.bufBytes).setWidth 32

/-- The value that a target reads from the registers and memories as they stand. -/
def readStored (s : State) (n : Width) : Target → Word
  | .reg r => readReg s r
  | .ftSym i => (ftAt s.ft i).sym.setWidth 32
  | .ftCnt i => (ftAt s.ft i).cnt
  | .ctCtrl c => ctCtrlWord (ctAt s.ct c)
  | .ctBits c => (ctAt s.ct c).bits
  | .arena i word => nodeWord (nodeAt s.arena i) word
  | .src a => readBuffer s a n
  | .dst a => readBuffer s a n

/-- The bits of a register that are UNSPECIFIED while BUSY = 1 (70_reset_and_hazards.md R246). Its reserved bits still read 0
(10_state.md R41; log entry 5). -/
def regDrawMask : Reg → Word
  | .status => 0x10
  | .outLen => 0x1FFFF
  | .padOut => 0x7
  | .totalBits => 0xFFFFFFFF
  | .nodeCount => 0x1FF
  | .root => 0x1FF
  | .id => 0
  | .cmd => 0
  | .ctrl => 0
  | .errInfo => 0
  | .errArg => 0
  | .ftLen => 0
  | .srcLen => 0
  | .padIn => 0
  | .paramBufBytes => 0

/-- The bits of n bytes. -/
def widthMask : Width → Word
  | .w1 => 0xFF
  | .w2 => 0xFFFF
  | .w4 => 0xFFFFFFFF

/-- The bits of an arena word that are not reserved (10_state.md R37). -/
def arenaMask : Nat → Word
  | 0 => 0xFF03
  | 1 => 0xFFFFFFFF
  | 2 => 0xFF
  | _ => 0x01FF01FF

/-- The bits of a target that are UNSPECIFIED while BUSY = 1 (70_reset_and_hazards.md R246). -/
def drawMask (n : Width) : Target → Word
  | .reg r => regDrawMask r
  | .ftSym _ => 0xFF
  | .ftCnt _ => 0xFFFFFFFF
  | .ctCtrl _ => 0x8000003F
  | .ctBits _ => 0xFFFFFFFF
  | .arena _ word => arenaMask word
  | .src _ => widthMask n
  | .dst _ => widthMask n

/-- The value read while BUSY = 1: the unspecified bits are a new draw, the others are as they stand (70_reset_and_hazards.md
R246). That ERR_INFO, ERR_ARG, DONE and ERR read 0 there follows from the acceptance (60_exceptions.md R218). -/
def readBusy (s : State) (n : Width) (t : Target) : Word :=
  (readStored s n t &&& ~~~drawMask n t) ||| (Config.freeWord s.draws &&& drawMask n t)

/-- `MemRead(addr, n)` (20_memory.md R62, R64; 70_reset_and_hazards.md R246). -/
def hostRead (addr : BitVec 18) (n : Width) (s : State) : State :=
  match target s.params addr.toNat n with
  | none => { s with resp := .busError }
  | some t =>
    if s.busy then { s with resp := .data (readBusy s n t), draws := s.draws + 1 }
    else { s with resp := .data (readStored s n t) }

/-- A write to a register that the block does not ignore (10_state.md R22 to R30; 20_memory.md R66, R67). A write to CMD reaches
here in IDLE only and is an acceptance (30_encoding.md R80). -/
def writeReg (v : Word) (s : State) : Reg → State
  | .cmd => acceptCommand v s
  | .status => writeStatus v s
  | .ctrl => writeCtrl v s
  | .ftLen => { s with ftLen := v.extractLsb' 0 9 }
  | .srcLen => { s with srcLen := v.extractLsb' 0 17 }
  | .padIn => { s with padIn := v.extractLsb' 0 3 }
  | .id => s
  | .errInfo => s
  | .errArg => s
  | .outLen => s
  | .padOut => s
  | .totalBits => s
  | .nodeCount => s
  | .root => s
  | .paramBufBytes => s

/-- A write that the block does not ignore. -/
def writeTarget (n : Width) (v : Word) (s : State) : Target → State
  | .reg r => writeReg v s r
  | .ftSym i => { s with ft := ftSet s.ft i { ftAt s.ft i with sym := v.extractLsb' 0 8 } }
  | .ftCnt i => { s with ft := ftSet s.ft i { ftAt s.ft i with cnt := v } }
  | .ctCtrl c => { s with ct := ctSet s.ct c { ctAt s.ct c with valid := v.getLsbD 31, len := v.extractLsb' 0 6 } }
  | .ctBits c => { s with ct := ctSet s.ct c { ctAt s.ct c with bits := v } }
  | .arena _ _ => s
  | .src a => { s with mem := Memory.writeBytes s.mem a (storedBytes v n) }
  | .dst _ => s

/-- The targets whose writes take effect in every sequencer state: STATUS and CTRL (70_reset_and_hazards.md R245). -/
def alwaysWritable : Target → Bool
  | .reg .status => true
  | .reg .ctrl => true
  | _ => false

/-- `MemWrite(addr, n, v)` (20_memory.md R62, R64; 70_reset_and_hazards.md R245, R247). An ignored write answers OK (log
entry 14). -/
def hostWrite (addr : BitVec 18) (n : Width) (v : Word) (s : State) : State :=
  match target s.params addr.toNat n with
  | none => { s with resp := .busError }
  | some t =>
    if s.busy && !alwaysWritable t then { s with overrun := true, resp := .ok }
    else { writeTarget n v s t with resp := .ok }

/-- A host transaction: none happens while rst_n is low (70_reset_and_hazards.md R240). -/
def hostTransaction (f : State → State) (s : State) : Host.Outcome State Fault Refusal :=
  if s.rstN then .next (f s) else .fault .transactionInReset

end Sys2Proof.Machine
end

