-- ==== Sys2Proof/Machine/BitPacker.lean ====
section
/-! DEFINITION. ENCODE (42_bit_packer.md). -/

namespace Sys2Proof.Machine

/-- The loop of 42_bit_packer.md R141 over the input bytes, from index `i` on, with `t` bits packed so far: the bits that these
bytes add, or the first error. -/
def packLoop (ct : List (Nat × CtEntry)) (bufBytes : Nat) (i t : Nat) : List Byte → Except Raise (List Bool)
  | [] => .ok []
  | b :: bs =>
    let e := ctAt ct b
    if e.valid then
      if ceilDiv8 (t + e.len.toNat) > bufBytes then .error ⟨.dstOverflow, BitVec.ofNat 32 i⟩
      else
        match packLoop ct bufBytes (i + 1) (t + e.len.toNat) bs with
        | .ok rest => .ok (codeBits e ++ rest)
        | .error r => .error r
    else .error ⟨.symbolNotInTable, BitVec.ofNat 32 i⟩

/-- The bit string that ENCODE packs, or the first error, in the order of 42_bit_packer.md R141. -/
def encodedBits (s : State) : Except Raise (List Bool) :=
  if s.srcLen.toNat > s.params.bufBytes then .error ⟨.badSrcLen, s.srcLen.setWidth 32⟩
  else if s.srcLen.toNat = 0 then .error ⟨.emptyInput, 0⟩
  else
    match validateCt s.ct with
    | .error r => .error r
    | .ok () => packLoop s.ct s.params.bufBytes 0 0 (srcBytes s s.srcLen.toNat)

/-- ENCODE (42_bit_packer.md R141, R145). -/
def execEncode (s : State) : Host.Outcome State Fault Refusal :=
  match encodedBits s with
  | .error r => .next (completeErr r (dropOutput s))
  | .ok b => .next (completeOk (setOutput (packBits b) (padLength b.length) b.length s))

end Sys2Proof.Machine
end

