-- ==== Sys2Proof/Machine/CodeAssigner.lean ====
section
/-! DEFINITION. ASSIGN_CODES (41_code_assigner.md). -/

namespace Sys2Proof.Machine

/-- Why the walk of the arena ends early. -/
inductive WalkStop where
  /-- A leaf deeper than 32, with its symbol (41_code_assigner.md R124). -/
  | codeTooLong (symbol : Byte)
  /-- An EMPTY node, or a path longer than the arena (log entry 11). -/
  | noTree
  deriving DecidableEq, Repr

/-- `visit(n, acc, depth)` (41_code_assigner.md R121): the codes of the leaves below node n, in preorder, entered into `ct`. A path
of a tree meets each arena node at most once, so `fuel` of ARENA_NODES suffices for every tree. -/
def visit (arena : List Node) : Nat → Nat → Nat → Nat → List (Nat × CtEntry) → Except WalkStop (List (Nat × CtEntry))
  | 0, _, _, _, _ => .error .noTree
  | fuel + 1, n, acc, depth, ct =>
    match nodeAt arena n with
    | none => .error .noTree
    | some (.leaf symbol _) =>
      if depth > Config.maxCodeLen then .error (.codeTooLong symbol)
      else .ok (ctSet ct symbol ⟨true, BitVec.ofNat 6 depth, BitVec.ofNat 32 acc⟩)
    | some (.internal _ left right) =>
      match visit arena fuel left.toNat (2 * acc) (depth + 1) ct with
      | .error e => .error e
      | .ok ct' => visit arena fuel right.toNat (2 * acc + 1) (depth + 1) ct'

/-- The CodeTable of the tree in the arena, from an empty table (41_code_assigner.md R121, R123). -/
def assignedTable (arena : List Node) (root : BitVec 9) : Except WalkStop (List (Nat × CtEntry)) :=
  match nodeAt arena root.toNat with
  | some (.leaf symbol _) => .ok (ctSet [] symbol ⟨true, 1, 0⟩)
  | _ => visit arena Config.arenaNodes root.toNat 0 0 []

/-- ASSIGN_CODES (41_code_assigner.md R121, R126). -/
def execAssignCodes (s : State) : Host.Outcome State Fault Refusal :=
  if s.treeValid then
    match assignedTable s.arena s.root with
    | .ok ct => .next (completeOk (setCodeTable ct s))
    | .error (.codeTooLong symbol) => .next (completeErr ⟨.codeTooLong, symbol.setWidth 32⟩ (setCodeTable [] s))
    | .error .noTree => .fault .arenaIsNoTree
  else .next (completeErr ⟨.noTree, 0⟩ s)

end Sys2Proof.Machine
end

