-- ==== Sys2Proof/Machine/Control.lean ====
section
/-! DEFINITION. NOP and CLEAR (45_control.md). -/

namespace Sys2Proof.Machine

/-- NOP (45_control.md R200). -/
def execNop (s : State) : Host.Outcome State Fault Refusal := .next (completeOk s)

/-- CLEAR (45_control.md R201). -/
def execClear (s : State) : Host.Outcome State Fault Refusal := .next (completeOk (clearCodec s))

end Sys2Proof.Machine
end

