-- ==== Sys2Proof/Machine/DecodeTrie.lean ====
section
/-! DEFINITION. DECODE: the decode trie and the walk (44_decode_trie.md). -/

namespace Sys2Proof.Machine

/-- The decode trie (10_state.md R43, 44_decode_trie.md R180): `absent` is an absent child. It lives inside one command and no
rule shows its node numbers, so it is a tree and not an array of numbered nodes (log entry 12). -/
inductive Trie where
  | absent
  | leaf (symbol : Byte)
  | node (child0 child1 : Trie)
  deriving DecidableEq, Repr

/-- The number of nodes of a trie, which the count of 44_decode_trie.md R181 counts. -/
def Trie.size : Trie → Nat
  | .absent => 0
  | .leaf _ => 1
  | .node l r => 1 + l.size + r.size

/-- child[b] of a node. -/
def Trie.child (b : Bool) : Trie → Trie
  | .absent => .absent
  | .leaf _ => .absent
  | .node l r => if b then r else l

/-- Insert the rest of a code below a trie (44_decode_trie.md R181): nodes are made where they are absent, and `none` is a
collision, with an earlier code that is a prefix of this one or of which this one is a prefix. -/
def Trie.insertCode (symbol : Byte) : List Bool → Trie → Option Trie
  | [], .absent => some (.leaf symbol)
  | [], .leaf _ => none
  | [], .node _ _ => none
  | _ :: _, .leaf _ => none
  | b :: bs, .absent =>
    match Trie.insertCode symbol bs .absent with
    | some t => some (if b then .node .absent t else .node t .absent)
    | none => none
  | b :: bs, .node l r =>
    if b then
      match Trie.insertCode symbol bs r with
      | some t => some (.node l t)
      | none => none
    else
      match Trie.insertCode symbol bs l with
      | some t => some (.node t r)
      | none => none

/-- `BuildTrie()` (44_decode_trie.md R181) from a trie on: every valid entry in ascending symbol order. -/
def buildTrie : Trie → List (Nat × CtEntry) → Except Raise Trie
  | t, [] => .ok t
  | t, (s, e) :: ct =>
    if e.valid then
      match t.insertCode (BitVec.ofNat 8 s) (codeBits e) with
      | some t' => buildTrie t' ct
      | none => .error ⟨.tableNotPrefixFree, BitVec.ofNat 32 s⟩
    else buildTrie t ct

/-- The trie of a CodeTable; node 0, the root, is always internal (44_decode_trie.md R180). -/
def trieOf (ct : List (Nat × CtEntry)) : Except Raise Trie := buildTrie (.node .absent .absent) ct

/-- The walk of 44_decode_trie.md R183 over the bits from index `t` on: `out` symbols are emitted, `cur` is the position, and
`start` is the first bit of the code begun, none at the root. It gives the symbols that these bits emit, or the first error. -/
def walkTrie (trie : Trie) (bufBytes : Nat) (t out : Nat) (cur : Trie) (start : Option Nat) :
    List Bool → Except Raise (List Byte)
  | [] =>
    match start with
    | none => .ok []
    | some first => .error ⟨.partialCode, BitVec.ofNat 32 first⟩
  | b :: bs =>
    match cur.child b with
    | .absent => .error ⟨.noMatch, BitVec.ofNat 32 t⟩
    | .leaf symbol =>
      if out = bufBytes then .error ⟨.dstOverflow, BitVec.ofNat 32 t⟩
      else
        match walkTrie trie bufBytes (t + 1) (out + 1) trie none bs with
        | .ok rest => .ok (symbol :: rest)
        | .error r => .error r
    | .node l r => walkTrie trie bufBytes (t + 1) out (.node l r) (some (start.getD t)) bs

/-- The bytes that DECODE writes, or the first error, in the order of 44_decode_trie.md R183. -/
def decodedBytes (s : State) : Except Raise (List Byte) :=
  if s.srcLen.toNat > s.params.bufBytes then .error ⟨.badSrcLen, s.srcLen.setWidth 32⟩
  else
    match validateCt s.ct with
    | .error r => .error r
    | .ok () =>
      match trieOf s.ct with
      | .error r => .error r
      | .ok trie => walkTrie trie s.params.bufBytes 0 0 trie none (srcBits s)

/-- DECODE (44_decode_trie.md R183, R186). -/
def execDecode (s : State) : Host.Outcome State Fault Refusal :=
  match decodedBytes s with
  | .error r => .next (completeErr r (dropOutput s))
  | .ok bytes => .next (completeOk (setOutput bytes 0 (nbits s) s))

end Sys2Proof.Machine
end

