-- ==== Sys2Proof/Machine/TreeBuilder.lean ====
section
/-! DEFINITION. BUILD_TREE (40_tree_builder.md). -/

namespace Sys2Proof.Machine

/-- The checks of FT[0..k−1] in the order of 40_tree_builder.md R102: for each entry, from index `i` on, a zero count, then a
symbol among those of the entries before it. -/
def checkEntries (seen : List Byte) (i : Nat) : List FtEntry → Except Raise Unit
  | [] => .ok ()
  | e :: es =>
    if e.cnt = 0 then .error ⟨.ftZeroCount, BitVec.ofNat 32 i⟩
    else if e.sym ∈ seen then .error ⟨.ftDupSymbol, BitVec.ofNat 32 i⟩
    else checkEntries (e.sym :: seen) (i + 1) es

/-- The priority key (freq(n), n) of arena node n (40_tree_builder.md R101). -/
structure Key where
  freq : BitVec 40
  index : Nat
  deriving DecidableEq, Repr

/-- The lexicographic order of keys (40_tree_builder.md R101). -/
def Key.less (a b : Key) : Bool :=
  decide (a.freq.toNat < b.freq.toNat) || (a.freq == b.freq && decide (a.index < b.index))

/-- The least key of a nonempty list of keys, and the others. -/
def popLeast (k : Key) : List Key → Key × List Key
  | [] => (k, [])
  | x :: xs =>
    if x.less k then
      let r := popLeast x xs
      (r.1, k :: r.2)
    else
      let r := popLeast k xs
      (r.1, x :: r.2)

/-- The merge loop of 40_tree_builder.md R102 over the live nodes `x :: live`: pop two, append their parent at index `next`, which
is the arena's length, and put it among the live nodes. It ends when one node is live. Each merge takes one of `fuel`, and
`live.length` merges are made. -/
def mergeLoop : Nat → Key → List Key → List Node → Key × List Node
  | 0, x, _, arena => (x, arena)
  | _ + 1, x, [], arena => (x, arena)
  | fuel + 1, x, y :: ys, arena =>
    let first := popLeast x (y :: ys)
    match first.2 with
    | [] => (first.1, arena)
    | z :: zs =>
      let second := popLeast z zs
      let parent : Key := ⟨first.1.freq + second.1.freq, arena.length⟩
      mergeLoop fuel parent second.2
        (arena ++ [.internal parent.freq (BitVec.ofNat 9 first.1.index) (BitVec.ofNat 9 second.1.index)])

/-- The leaf of an entry: its symbol, and its count widened to 40 bits (40_tree_builder.md R102). -/
def leafOf (e : FtEntry) : Node := .leaf e.sym (e.cnt.setWidth 40)

/-- The keys of the leaves, from index `i` on. -/
def leafKeys (i : Nat) : List FtEntry → List Key
  | [] => []
  | e :: es => ⟨e.cnt.setWidth 40, i⟩ :: leafKeys (i + 1) es

/-- The tree of a nonempty list of entries: its root's index and the arena (40_tree_builder.md R102). -/
def buildArena (es : List FtEntry) : Nat × List Node :=
  match leafKeys 0 es with
  | [] => (0, [])
  | k :: ks =>
    let r := mergeLoop ks.length k ks (es.map leafOf)
    (r.1.index, r.2)

/-- The checks of BUILD_TREE, in order (40_tree_builder.md R102). -/
def checkTable (s : State) : Except Raise Unit :=
  if s.ftLen.toNat > Config.ftEntries then .error ⟨.badFtLen, s.ftLen.setWidth 32⟩
  else if s.ftLen.toNat = 0 then .error ⟨.ftEmpty, 0⟩
  else checkEntries [] 0 (ftEntries s.ft s.ftLen.toNat)

/-- BUILD_TREE (40_tree_builder.md R102, R105). -/
def execBuildTree (s : State) : Host.Outcome State Fault Refusal :=
  match checkTable s with
  | .error r => .next (completeErr r (dropTree s))
  | .ok () =>
    let tree := buildArena (ftEntries s.ft s.ftLen.toNat)
    .next (completeOk (setTree tree.2 (BitVec.ofNat 9 tree.1) s))

end Sys2Proof.Machine
end

