-- ==== Sys2Proof/Machine/Sequencer.lean ====
section
/-! DEFINITION. The sequencer's move: the end of INIT, or the fetch, decode and run of the accepted command (10_state.md R20,
30_encoding.md R81). -/

namespace Sys2Proof.Machine

/-- Run a command word that was accepted: decode it, then dispatch, or complete with ILLEGAL_CMD (30_encoding.md R81, R83). -/
def runCommand (w : Word) (s : State) : Host.Outcome State Fault Refusal :=
  match decodeBytes (wordBytes w) with
  | .ok (i, _) => exec i s
  | .error _ => .next (completeErr ⟨.illegalCmd, w⟩ s)

/-- The sequencer moves. In IDLE it waits for the host's next command (45_control.md R202; log entry 17), and while rst_n is low
it stands still (70_reset_and_hazards.md R240; log entry 9). -/
def sequencerMove (s : State) : Host.Outcome State Fault Refusal :=
  if s.rstN then
    match s.seq with
    | .init => .next (endInit s)
    | .idle => .next s
    | .busy w => runCommand w s
  else .next s

/-- Place a command word as accepted, with the sequencer to move next: the state from which the next step runs it (log entry 2). -/
def placeCommand (w : Word) (s : State) : State :=
  { acceptCommand w s with
    rstN := true
    inputs :=
      match s.inputs with
      | [] => []
      | e :: es => .sequencer :: e :: es }

end Sys2Proof.Machine
end

