-- ==== Sys2Proof/Machine/Step.lean ====
section
/-! DEFINITION. One step of the block: the next event of its ports and agents (60_exceptions.md R228; log entries 1 and 2). -/

namespace Sys2Proof.Machine

/-- One step takes the next event; where no event is left, the sequencer moves (60_exceptions.md R229). -/
def step (s : State) : Host.Outcome State Fault Refusal :=
  match s.inputs with
  | [] => sequencerMove s
  | .sequencer :: rest => sequencerMove { s with inputs := rest }
  | .read addr n :: rest => hostTransaction (hostRead addr n) { s with inputs := rest }
  | .write addr n v :: rest => hostTransaction (hostWrite addr n v) { s with inputs := rest }
  | .resetLow :: rest => .next (resetLow { s with inputs := rest })
  | .resetHigh :: rest => .next (resetHigh { s with inputs := rest })

/-- The state in which the next step runs the command word `w` of `nbits` bits: the word is accepted and the sequencer moves next
(log entry 2). -/
def State.withFetchWord (s : State) (nbits w : Nat) : State := placeCommand (tableWord nbits w) s

end Sys2Proof.Machine
end

