-- ==== Sys2Proof/Safety.lean ====
section
/-! DEFINITION. What counts as a good state of the block (the invariant that every step keeps), and the words in which claims
about trees, codes and tables are made. -/

namespace Sys2Proof.Machine

/-! ## Frequency tables and trees -/

/-- A FrequencyTable that BUILD_TREE accepts: 1..256 entries, positive counts, pairwise distinct symbols (40_tree_builder.md
R102). -/
structure ValidTable (es : List FtEntry) : Prop where
  nonempty : es ≠ []
  bounded : es.length ≤ Config.ftEntries
  positive : ∀ e ∈ es, e.cnt ≠ 0
  distinct : (es.map FtEntry.sym).Nodup

/-- ARENA, ROOT and NODE_COUNT hold the tree of the table `es` (10_state.md R23: "1 while ARENA holds the tree of a successful
BUILD_TREE"). -/
structure HoldsTree (es : List FtEntry) (s : State) : Prop where
  table : ValidTable es
  arena : s.arena = (buildArena es).2
  root : s.root = BitVec.ofNat 9 (buildArena es).1
  nodeCount : s.nodeCount = BitVec.ofNat 9 (buildArena es).2.length

/-- A path in the arena from node n down to the leaf of a symbol: the edge labels in order, 0 for LEFT and 1 for RIGHT
(41_code_assigner.md R122). -/
inductive PathTo (arena : List Node) : Nat → List Bool → Byte → Prop where
  | leaf {n : Nat} {symbol : Byte} {f : BitVec 40} (h : nodeAt arena n = some (.leaf symbol f)) :
      PathTo arena n [] symbol
  | left {n : Nat} {f : BitVec 40} {l r : BitVec 9} {p : List Bool} {symbol : Byte}
      (h : nodeAt arena n = some (.internal f l r)) (below : PathTo arena l.toNat p symbol) :
      PathTo arena n (false :: p) symbol
  | right {n : Nat} {f : BitVec 40} {l r : BitVec 9} {p : List Bool} {symbol : Byte}
      (h : nodeAt arena n = some (.internal f l r)) (below : PathTo arena r.toNat p symbol) :
      PathTo arena n (true :: p) symbol

/-- The leaf at the end of path p comes before that of path q in preorder: where the paths part, p goes left and q goes right
(41_code_assigner.md R121). -/
def PreorderBefore (p q : List Bool) : Prop := ∃ c x y, p = c ++ false :: x ∧ q = c ++ true :: y

/-- Node m is live when node n is about to be made: it exists, and no internal node made before n has it as a child
(40_tree_builder.md R102, with k leaves). -/
def LiveBefore (arena : List Node) (k n m : Nat) : Prop :=
  m < n ∧ ∀ j f l r, k ≤ j → j < n → nodeAt arena j = some (.internal f l r) → m ≠ l.toNat ∧ m ≠ r.toNat

/-- key(a) < key(b): the lexicographic order of (freq(n), n) over arena nodes (40_tree_builder.md R101). -/
def KeyBelow (arena : List Node) (a b : Nat) : Prop :=
  ∃ x y, nodeAt arena a = some x ∧ nodeAt arena b = some y ∧
    (x.freq.toNat < y.freq.toNat ∨ (x.freq = y.freq ∧ a < b))

/-- freq_model(S), the host's reference function (40_tree_builder.md R100), on from the entries made so far. -/
def freqModelFrom (entries : List FtEntry) : List Byte → List FtEntry
  | [] => entries
  | b :: bs =>
    if b ∈ entries.map FtEntry.sym then
      freqModelFrom (entries.map fun e => if e.sym = b then { e with cnt := e.cnt + 1 } else e) bs
    else freqModelFrom (entries ++ [⟨b, 1⟩]) bs

/-- freq_model(S) (40_tree_builder.md R100). -/
def freqModel (bytes : List Byte) : List FtEntry := freqModelFrom [] bytes

/-! ## Code tables -/

/-- The integer of a bit string: Σ_j c_j · 2^(d−1−j) (41_code_assigner.md R122). -/
def bitsValue : List Bool → Nat
  | [] => 0
  | b :: bs => bitNat b * 2 ^ bs.length + bitsValue bs

/-- The code of a symbol as a bit string (00_scope.md R9). -/
def codeOf (ct : List (Nat × CtEntry)) (c : Byte) : List Bool := codeBits (ctAt ct c)

/-- The symbol has a code. -/
def HasCode (ct : List (Nat × CtEntry)) (c : Byte) : Prop := (ctAt ct c).valid = true

/-- CT in its canonical form (part of the invariant `State.Inv`). -/
def CanonicalTable (ct : List (Nat × CtEntry)) : Prop := Sparse.wfOr noCode 256 ct = true

/-- Every valid entry has 1 ≤ len ≤ 32 and bits < 2^len (30_encoding.md R85). -/
def LegalTable (ct : List (Nat × CtEntry)) : Prop := ∀ c, HasCode ct c → (ctAt ct c).illegal = false

/-- One of two bit strings is a prefix of the other. -/
def Comparable (p q : List Bool) : Prop := p <+: q ∨ q <+: p

/-- No code of the table is a prefix of another code of the table (00_scope.md glossary, "Prefix-free"). -/
def PrefixFree (ct : List (Nat × CtEntry)) : Prop :=
  ∀ a b, HasCode ct a → HasCode ct b → a ≠ b → ¬ Comparable (codeOf ct a) (codeOf ct b)

/-- Every bit string that is a proper prefix of a code goes on, with either bit, to a prefix of a code: the trie has no absent
child below any internal node (44_decode_trie.md R188). -/
def CompleteTable (ct : List (Nat × CtEntry)) : Prop :=
  (∃ c, HasCode ct c) ∧
    ∀ p b c, HasCode ct c → p <+: codeOf ct c → p ≠ codeOf ct c → ∃ d, HasCode ct d ∧ (p ++ [b]) <+: codeOf ct d

/-- The bits of a list of symbols: their codes one after the other (42_bit_packer.md R141). -/
def bitsOf (ct : List (Nat × CtEntry)) (symbols : List Byte) : List Bool := symbols.flatMap (codeOf ct)

/-- The table of a symbol's occurrences that 42_bit_packer.md R144 sums: Σ_s CT[s].len · cnt(s). -/
def weightedLength (ct : List (Nat × CtEntry)) (bytes : List Byte) : Nat :=
  ((List.range 256).map fun c => (ctAt ct (BitVec.ofNat 8 c)).len.toNat * bytes.count (BitVec.ofNat 8 c)).sum

/-- 2^32 · Σ_s 2^(−CT[s].len) over the valid entries (41_code_assigner.md R125). -/
def kraftSum (ct : List (Nat × CtEntry)) : Nat :=
  ((List.range 256).map fun c =>
    if (ctAt ct (BitVec.ofNat 8 c)).valid then 2 ^ (32 - (ctAt ct (BitVec.ofNat 8 c)).len.toNat) else 0).sum

/-! ## The slave port -/

/-- The accesses that are no bus error: the offsets of 20_memory.md R61 at the widths and alignments of R63. -/
def AllowedAccess (p : Params) (a : Nat) (n : Width) : Prop :=
  (n = .w4 ∧ a % 4 = 0 ∧
      (a ≤ 0x38 ∨ (0x1000 ≤ a ∧ a ≤ 0x17FF) ∨ (0x2000 ≤ a ∧ a ≤ 0x27FF) ∨ (0x4000 ≤ a ∧ a ≤ 0x5FEF))) ∨
    (a % n.bytes = 0 ∧
      ((0x10000 ≤ a ∧ a + n.bytes ≤ 0x10000 + p.bufBytes) ∨ (0x20000 ≤ a ∧ a + n.bytes ≤ 0x20000 + p.bufBytes)))

/-- The bits of the register or window word at an offset that are not reserved (10_state.md R21 to R40). -/
def definedBits (a : Nat) : Word :=
  if 0x1000 ≤ a ∧ a < 0x1800 then (if a % 8 = 0 then 0xFF else 0xFFFFFFFF)
  else if 0x2000 ≤ a ∧ a < 0x2800 then (if a % 8 = 0 then 0x8000003F else 0xFFFFFFFF)
  else if 0x4000 ≤ a ∧ a < 0x5FF0 then
    (if a % 16 = 0 then 0x0000FF03 else if a % 16 = 4 then 0xFFFFFFFF else if a % 16 = 8 then 0xFF else 0x01FF01FF)
  else if a = 0x00 ∨ a = 0x14 ∨ a = 0x2C then 0xFFFFFFFF
  else if a = 0x08 then 0x1F
  else if a = 0x0C then 0x1
  else if a = 0x10 then 0x000FFF0F
  else if a = 0x18 ∨ a = 0x30 ∨ a = 0x34 then 0x1FF
  else if a = 0x1C ∨ a = 0x24 ∨ a = 0x38 then 0x1FFFF
  else if a = 0x20 ∨ a = 0x28 then 0x7
  else 0

/-! ## The invariant -/

/-- What holds of every state that the block reaches. -/
structure State.Inv (s : State) : Prop where
  /-- BUF_BYTES is legal (00_scope.md R6). -/
  params : s.params.wellFormed = true
  /-- The memory is in canonical form. -/
  memory : Memory.wf s.mem = true
  /-- Every listed byte lies in SRC or DST (20_memory.md R61). -/
  buffers : Memory.inBuffers s.params s.mem = true
  /-- FT is in canonical form, with indices below 256. -/
  frequencyTable : Sparse.wfOr ⟨0, 0⟩ Config.ftEntries s.ft = true
  /-- CT is in canonical form, with symbols below 256. -/
  codeTable : CanonicalTable s.ct
  /-- DONE and ERR are never both 1 (10_state.md R23). -/
  doneErr : ¬ (s.done = true ∧ s.err = true)
  /-- ERR_INFO is 0 or holds a kind and cause of 60_exceptions.md R211. -/
  errInfo : s.errInfo = noError ∨ ∃ c : Cause, s.errInfo = c.errInfo s.errInfo.op
  /-- Without an error, ERR_ARG is 0 (60_exceptions.md R217, R218). -/
  errArg : s.errInfo = noError → s.errArg = 0
  /-- ERR stands with a cause in ERR_INFO (60_exceptions.md R214). -/
  errCause : s.err = true → s.errInfo ≠ noError
  /-- DONE stands with no cause in ERR_INFO (60_exceptions.md R217). -/
  doneNoCause : s.done = true → s.errInfo = noError
  /-- While BUSY = 1, DONE, ERR, ERR_INFO and ERR_ARG are 0 (70_reset_and_hazards.md R246). -/
  busyClean : s.busy = true → s.done = false ∧ s.err = false ∧ s.errInfo = noError ∧ s.errArg = 0
  /-- CUR_OP is the opcode of the command in progress (10_state.md R20). -/
  currentOp : ∀ w, s.seq = .busy w → s.curOp = opcodeField w
  /-- TREE_VALID is 1 exactly while ARENA holds the tree of a BUILD_TREE (10_state.md R23) … -/
  tree : s.treeValid = true → ∃ es, HoldsTree es s
  /-- … and otherwise there is no tree (40_tree_builder.md R105, 45_control.md R201, 70_reset_and_hazards.md R241). -/
  noTree : s.treeValid = false → s.arena = [] ∧ s.nodeCount = 0 ∧ s.root = 0
  /-- OUT_LEN is at most BUF_BYTES (10_state.md R31). -/
  outLen : s.outLen.toNat ≤ s.params.bufBytes
  /-- TOTAL_BITS is at most 8·BUF_BYTES (10_state.md R33). -/
  totalBits : s.totalBits.toNat ≤ 8 * s.params.bufBytes
  /-- While rst_n is low, no command is in progress (70_reset_and_hazards.md R240). -/
  inReset : s.rstN = false → s.seq = .idle
  /-- The model's own: the draws of SRC and DST are taken (log entry 4). -/
  drawsTaken : s.srcDraw < s.draws ∧ s.dstDraw < s.draws

/-! ## Safe steps -/

/-- The next event is not a host transaction, or rst_n is high: the host keeps the duty of 70_reset_and_hazards.md R240. -/
def HostKeepsReset (s : State) : Prop :=
  s.rstN = true ∨
    ((∀ addr n rest, s.inputs ≠ .read addr n :: rest) ∧ ∀ addr n v rest, s.inputs ≠ .write addr n v :: rest)

/-- The next step is the sequencer's: no event is left, or the next one says so (log entry 1). -/
def SequencerNext (s : State) : Prop := s.inputs = [] ∨ ∃ rest, s.inputs = .sequencer :: rest

/-- The events that are left after the next step. -/
def afterEvent (s : State) : State := { s with inputs := s.inputs.tail }

/-- A command succeeds: it completes, and without an error (60_exceptions.md R217). -/
def Succeeds (i : Instr) (s t : State) : Prop := exec i s = .next t ∧ t.err = false

end Sys2Proof.Machine
end

