-- ==== Sys2Proof/Certificates/Slice0/Obligations.lean ====
section
/-! DEFINITION. The statements for the provers, in the order of OBLIGATIONS.json. In a statement about `step`, which event comes
next, and that it is taken off `inputs`, is the model's choice (log entry 1), and so is the field `resp` that holds the port's
answer (log entry 3). Where 60_exceptions.md R214 and R217 say that DONE or ERR "stays 0" at a completion, a statement that has the
bit unchanged, in every state, is the model's reading (log entry 15). -/

open Sys2Proof Sys2Proof.Machine

/-! ## Commands and their words -/

/-- 30_encoding.md R82: the six command words, and that OPCODE 0x6..0xF is reserved. -/
def Obligations.OpcodeMapDecodes : Prop :=
  decodeWord 0x00000000 = .ok .nop ∧ decodeWord 0x00000001 = .ok .clear ∧
    decodeWord 0x00000002 = .ok .buildTree ∧ decodeWord 0x00000003 = .ok .assignCodes ∧
    decodeWord 0x00000004 = .ok .encode ∧ decodeWord 0x00000005 = .ok .decode ∧
    ∀ op : BitVec 4, 6 ≤ op.toNat → decodeWord (op.setWidth 32) = .error (.reservedOpcode op)

/-- 30_encoding.md R81 to R83: bytes decode to a command exactly when they begin with the four bytes of its word. -/
def Obligations.DecodeIsInverseOfEncode : Prop :=
  ∀ (bytes rest : List Byte) (i : Instr), decodeBytes bytes = .ok (i, rest) ↔ bytes = wordBytes (encode i) ++ rest

/-- 10_state.md R20, 30_encoding.md R81: when the sequencer moves with an accepted word that decodes to a command, the step is the
meaning of that command. That the event is taken off `inputs` is the model's (log entry 1). -/
def Obligations.StepRunsTheAcceptedCommand : Prop :=
  ∀ (s : State) (w : Word) (i : Instr), s.rstN = true → s.seq = .busy w → SequencerNext s → decodeWord w = .ok i →
    step s = exec i (afterEvent s)

/-- 30_encoding.md R83, and what its completion reports (60_exceptions.md R214). -/
def Obligations.IllegalWordsComplete : Prop :=
  ∀ w : Word,
    ((w.extractLsb' 4 28 ≠ 0 ∨ 6 ≤ (w.extractLsb' 0 4).toNat) →
      (∀ i, decodeWord w ≠ .ok i) ∧
      ∀ s : State, s.rstN = true → s.seq = .busy w → SequencerNext s →
        step s = .next { afterEvent s with errInfo := ⟨5, 0x51, s.curOp⟩, errArg := w, err := true, seq := .idle }) ∧
    (¬ (w.extractLsb' 4 28 ≠ 0 ∨ 6 ≤ (w.extractLsb' 0 4).toNat) → ∃ i, w = encode i ∧ decodeWord w = .ok i)

/-! ## The slave port -/

/-- 30_encoding.md R80, 60_exceptions.md R218, 70_reset_and_hazards.md R247: a 32-bit write to CMD is accepted in IDLE and ignored,
with OVERRUN, while BUSY = 1; a narrower one is a bus error and issues nothing. That the acceptance sets CUR_OP and that an
ignored write answers OK is the model's (log entries 13 and 14). -/
def Obligations.CommandIssue : Prop :=
  ∀ (s : State) (w : Word) (rest : List Input), s.rstN = true →
    (s.inputs = .write 0x004 .w4 w :: rest → s.seq = .idle →
      step s = .next { s with
        done := false, err := false, errInfo := ⟨0, 0, 0⟩, errArg := 0, seq := .busy w, curOp := w.extractLsb' 0 4,
        resp := .ok, inputs := rest }) ∧
    (s.inputs = .write 0x004 .w4 w :: rest → s.busy = true →
      step s = .next { s with overrun := true, resp := .ok, inputs := rest }) ∧
    ((s.inputs = .write 0x004 .w1 w :: rest ∨ s.inputs = .write 0x004 .w2 w :: rest) →
      step s = .next { s with resp := .busError, inputs := rest })

/-- 20_memory.md R61, R63, R64: an access that is not allowed gets a bus error and changes nothing, whatever the sequencer does; an
allowed read returns data and an allowed write returns OK. That the bus error is an answer and no stop of the machine is the
model's (log entry 3), and so is that a write ignored while BUSY = 1 answers OK (20_memory.md R62; log entry 14). -/
def Obligations.BusErrorsChangeNothing : Prop :=
  ∀ (s : State) (addr : BitVec 18) (n : Width) (v : Word) (rest : List Input), s.rstN = true →
    (¬ AllowedAccess s.params addr.toNat n → (s.inputs = .read addr n :: rest ∨ s.inputs = .write addr n v :: rest) →
      step s = .next { s with resp := .busError, inputs := rest }) ∧
    (AllowedAccess s.params addr.toNat n → s.inputs = .read addr n :: rest → ∃ t d, step s = .next t ∧ t.resp = .data d) ∧
    (AllowedAccess s.params addr.toNat n → s.inputs = .write addr n v :: rest → ∃ t, step s = .next t ∧ t.resp = .ok)

/-- 20_memory.md R66, 10_state.md R41: reserved bits of registers and window words read 0 in every sequencer state, and a write in
IDLE sets only the other bits of its target, each to the value written. That reserved bits read 0 also while BUSY = 1, where
70_reset_and_hazards.md R246 calls the value read UNSPECIFIED, is the model's reading (log entry 5). -/
def Obligations.ReservedBits : Prop :=
  (∀ (s t : State) (addr : BitVec 18) (rest : List Input) (d : Word), s.rstN = true → addr.toNat < 0x10000 →
    s.inputs = .read addr .w4 :: rest → step s = .next t → t.resp = .data d → d &&& ~~~ definedBits addr.toNat = 0) ∧
  ∀ (s : State) (v : Word) (rest : List Input), s.rstN = true → s.seq = .idle →
    (s.inputs = .write 0x00C .w4 v :: rest →
      step s = .next { s with irqEn := v.getLsbD 0, resp := .ok, inputs := rest }) ∧
    (s.inputs = .write 0x018 .w4 v :: rest →
      step s = .next { s with ftLen := v.extractLsb' 0 9, resp := .ok, inputs := rest }) ∧
    (s.inputs = .write 0x01C .w4 v :: rest →
      step s = .next { s with srcLen := v.extractLsb' 0 17, resp := .ok, inputs := rest }) ∧
    (s.inputs = .write 0x020 .w4 v :: rest →
      step s = .next { s with padIn := v.extractLsb' 0 3, resp := .ok, inputs := rest }) ∧
    (∀ i : Byte, s.inputs = .write (BitVec.ofNat 18 (0x1000 + 8 * i.toNat)) .w4 v :: rest →
      ∃ t, step s = .next t ∧ t = { s with ft := t.ft, resp := .ok, inputs := rest } ∧
        ∀ j, ftAt t.ft j = if j = i.toNat then ⟨v.extractLsb' 0 8, (ftAt s.ft j).cnt⟩ else ftAt s.ft j) ∧
    (∀ i : Byte, s.inputs = .write (BitVec.ofNat 18 (0x1004 + 8 * i.toNat)) .w4 v :: rest →
      ∃ t, step s = .next t ∧ t = { s with ft := t.ft, resp := .ok, inputs := rest } ∧
        ∀ j, ftAt t.ft j = if j = i.toNat then ⟨(ftAt s.ft j).sym, v⟩ else ftAt s.ft j) ∧
    (∀ c : Byte, s.inputs = .write (BitVec.ofNat 18 (0x2000 + 8 * c.toNat)) .w4 v :: rest →
      ∃ t, step s = .next t ∧ t = { s with ct := t.ct, resp := .ok, inputs := rest } ∧
        ∀ d, ctAt t.ct d = if d = c then ⟨v.getLsbD 31, v.extractLsb' 0 6, (ctAt s.ct d).bits⟩ else ctAt s.ct d) ∧
    (∀ c : Byte, s.inputs = .write (BitVec.ofNat 18 (0x2004 + 8 * c.toNat)) .w4 v :: rest →
      ∃ t, step s = .next t ∧ t = { s with ct := t.ct, resp := .ok, inputs := rest } ∧
        ∀ d, ctAt t.ct d = if d = c then ⟨(ctAt s.ct d).valid, (ctAt s.ct d).len, v⟩ else ctAt s.ct d)

/-- 10_state.md R21 to R40: while BUSY = 0, a read of a register or window word returns its fields. -/
def Obligations.IdleReadsReturnTheFields : Prop :=
  ∀ (s : State) (rest : List Input), s.rstN = true → s.seq = .idle →
    (∀ (a : BitVec 18) (d : Nat),
      (a.toNat, d) ∈ [(0x000, 0x48554631), (0x004, 0),
        (0x008, 2 * bitNat s.done + 4 * bitNat s.err + 8 * bitNat s.overrun + 16 * bitNat s.treeValid),
        (0x00C, bitNat s.irqEn),
        (0x010, s.errInfo.kind.toNat + 0x100 * s.errInfo.cause.toNat + 0x10000 * s.errInfo.op.toNat),
        (0x014, s.errArg.toNat), (0x018, s.ftLen.toNat), (0x01C, s.srcLen.toNat), (0x020, s.padIn.toNat),
        (0x024, s.outLen.toNat), (0x028, s.padOut.toNat), (0x02C, s.totalBits.toNat), (0x030, s.nodeCount.toNat),
        (0x034, s.root.toNat), (0x038, s.params.bufBytes % 0x20000)] →
      s.inputs = .read a .w4 :: rest →
      step s = .next { s with resp := .data (BitVec.ofNat 32 d), inputs := rest }) ∧
    (∀ i : Byte, s.inputs = .read (BitVec.ofNat 18 (0x1000 + 8 * i.toNat)) .w4 :: rest →
      step s = .next { s with resp := .data (BitVec.ofNat 32 (ftAt s.ft i.toNat).sym.toNat), inputs := rest }) ∧
    (∀ i : Byte, s.inputs = .read (BitVec.ofNat 18 (0x1004 + 8 * i.toNat)) .w4 :: rest →
      step s = .next { s with resp := .data (ftAt s.ft i.toNat).cnt, inputs := rest }) ∧
    (∀ c : Byte, s.inputs = .read (BitVec.ofNat 18 (0x2000 + 8 * c.toNat)) .w4 :: rest →
      step s = .next { s with
        resp := .data (BitVec.ofNat 32 ((ctAt s.ct c).len.toNat + 0x80000000 * bitNat (ctAt s.ct c).valid)),
        inputs := rest }) ∧
    (∀ c : Byte, s.inputs = .read (BitVec.ofNat 18 (0x2004 + 8 * c.toNat)) .w4 :: rest →
      step s = .next { s with resp := .data (ctAt s.ct c).bits, inputs := rest }) ∧
    (∀ n word : Nat, n < 511 → word < 4 → s.inputs = .read (BitVec.ofNat 18 (0x4000 + 16 * n + 4 * word)) .w4 :: rest →
      step s = .next { s with
        resp := .data (BitVec.ofNat 32
          (match nodeAt s.arena n with
          | none => 0
          | some (.leaf symbol f) =>
            if word = 0 then 1 + 0x100 * symbol.toNat
            else if word = 1 then f.toNat % 0x100000000
            else if word = 2 then f.toNat / 0x100000000
            else 0
          | some (.internal f l r) =>
            if word = 0 then 2
            else if word = 1 then f.toNat % 0x100000000
            else if word = 2 then f.toNat / 0x100000000
            else l.toNat + 0x10000 * r.toNat))
        inputs := rest })

/-- 10_state.md R24: a write to STATUS, in every sequencer state. -/
def Obligations.StatusWriteClearsWrittenOnes : Prop :=
  ∀ (s : State) (v : Word) (rest : List Input), s.rstN = true → s.inputs = .write 0x008 .w4 v :: rest →
    ∃ t, step s = .next t ∧
      t = { s with done := t.done, err := t.err, overrun := t.overrun, resp := .ok, inputs := rest } ∧
      t.done = (if v.getLsbD 1 then false else s.done) ∧
      t.err = (if v.getLsbD 2 then false else s.err) ∧
      t.overrun = (if v.getLsbD 3 then false else s.overrun)

/-- 20_memory.md R65: accesses to SRC and DST are little-endian, a write to SRC touches only its own bytes, and reads of every
width see the bytes of DST and SRC as they stand. -/
def Obligations.BufferAccessesAreLittleEndian : Prop :=
  ∀ (s : State) (addr : BitVec 18) (n : Width) (v : Word) (rest : List Input), s.rstN = true → s.seq = .idle →
    addr.toNat % n.bytes = 0 → s.params.wellFormed = true →
    (0x10000 ≤ addr.toNat → addr.toNat + n.bytes ≤ 0x10000 + s.params.bufBytes → s.inputs = .write addr n v :: rest →
      ∃ t, step s = .next t ∧ t = { s with mem := t.mem, resp := .ok, inputs := rest } ∧
        (∀ q, q < n.bytes → readByte t (addr.toNat + q) = v.extractLsb' (8 * q) 8) ∧
        ∀ a, a < addr.toNat ∨ addr.toNat + n.bytes ≤ a → readByte t a = readByte s a) ∧
    ((0x10000 ≤ addr.toNat ∧ addr.toNat + n.bytes ≤ 0x10000 + s.params.bufBytes ∨
        0x20000 ≤ addr.toNat ∧ addr.toNat + n.bytes ≤ 0x20000 + s.params.bufBytes) →
      s.inputs = .read addr n :: rest →
      ∃ d, step s = .next { s with resp := .data d, inputs := rest } ∧
        (∀ q, q < n.bytes → d.extractLsb' (8 * q) 8 = readByte s (addr.toNat + q)) ∧ d.toNat < 2 ^ (8 * n.bytes))

/-- 20_memory.md R67: in IDLE, a write to a read-only target is ignored and answers OK, with no OVERRUN; a read of CMD returns 0 in
every sequencer state. -/
def Obligations.ReadOnlyTargetsIgnoreWrites : Prop :=
  ∀ (s : State) (addr : BitVec 18) (n : Width) (v : Word) (rest : List Input), s.rstN = true →
    s.params.wellFormed = true →
    (s.seq = .idle → s.inputs = .write addr n v :: rest → AllowedAccess s.params addr.toNat n →
      (addr.toNat ∈ [0x000, 0x010, 0x014, 0x024, 0x028, 0x02C, 0x030, 0x034, 0x038] ∨
        (0x4000 ≤ addr.toNat ∧ addr.toNat ≤ 0x5FEF) ∨ 0x20000 ≤ addr.toNat) →
      step s = .next { s with resp := .ok, inputs := rest }) ∧
    (s.inputs = .read 0x004 .w4 :: rest → ∃ t, step s = .next t ∧ t.resp = .data 0 ∧ t.overrun = s.overrun)

/-- 70_reset_and_hazards.md R245: while BUSY = 1, a write that is no bus error is ignored and sets OVERRUN, but for writes to STATUS
and CTRL, which take effect. That an ignored write answers OK is the model's (log entry 14). -/
def Obligations.BusyWritesAreIgnored : Prop :=
  ∀ (s : State) (addr : BitVec 18) (n : Width) (v : Word) (rest : List Input), s.rstN = true → s.busy = true →
    AllowedAccess s.params addr.toNat n → s.inputs = .write addr n v :: rest →
    (addr.toNat ≠ 0x008 → addr.toNat ≠ 0x00C →
      step s = .next { s with overrun := true, resp := .ok, inputs := rest }) ∧
    (addr.toNat = 0x008 → ∃ t, step s = .next t ∧
      t = { s with done := t.done, err := t.err, overrun := s.overrun && !v.getLsbD 3, resp := .ok, inputs := rest }) ∧
    (addr.toNat = 0x00C → step s = .next { s with irqEn := v.getLsbD 0, resp := .ok, inputs := rest })

/-- 70_reset_and_hazards.md R246: what reads return while BUSY = 1. Of an UNSPECIFIED value nothing is claimed (log entries 5 and
6). -/
def Obligations.BusyReads : Prop :=
  ∀ (s : State) (addr : BitVec 18) (rest : List Input), s.Inv → s.rstN = true → s.busy = true →
    s.inputs = .read addr .w4 :: rest → AllowedAccess s.params addr.toNat .w4 →
    ∃ t d, step s = .next t ∧ t = { s with resp := .data d, draws := t.draws, inputs := rest } ∧
      (addr.toNat = 0x000 → d = 0x48554631) ∧
      (addr.toNat = 0x004 → d = 0) ∧
      (addr.toNat = 0x008 → ∃ treeValid : Bool, d.toNat = 1 + 8 * bitNat s.overrun + 16 * bitNat treeValid) ∧
      (addr.toNat = 0x00C → d.toNat = bitNat s.irqEn) ∧
      (addr.toNat = 0x010 → d = 0) ∧
      (addr.toNat = 0x014 → d = 0) ∧
      (addr.toNat = 0x018 → d.toNat = s.ftLen.toNat) ∧
      (addr.toNat = 0x01C → d.toNat = s.srcLen.toNat) ∧
      (addr.toNat = 0x020 → d.toNat = s.padIn.toNat) ∧
      (addr.toNat = 0x038 → d.toNat = s.params.bufBytes)

/-- 20_memory.md R68: a read changes nothing but the answer of the port (and, while BUSY = 1, the model's own draw counter), and in
IDLE a read that follows it returns the same value. -/
def Obligations.ReadsHaveNoSideEffect : Prop :=
  ∀ (s : State) (addr : BitVec 18) (n : Width) (rest : List Input), s.rstN = true → s.inputs = .read addr n :: rest →
    ∃ t, step s = .next t ∧ t = { s with resp := t.resp, draws := t.draws, inputs := rest } ∧
      (s.seq = .idle → t.draws = s.draws ∧
        ∀ rest', rest = .read addr n :: rest' → step t = .next { t with inputs := rest' })

/-! ## Reset and interrupt -/

/-- 70_reset_and_hazards.md R240: rst_n going low stops a command in progress without a completion; its DST bytes become
UNSPECIFIED. While rst_n is low no host transaction happens; the model stops on one. Going high enters INIT. What SEQ holds in
between is the model's (log entry 9). -/
def Obligations.ResetStopsTheCommand : Prop :=
  ∀ (s : State) (rest : List Input),
    (s.inputs = .resetLow :: rest → s.rstN = true →
      ∃ t, step s = .next t ∧
        t = { s with rstN := false, seq := .idle, mem := t.mem, dstDraw := t.dstDraw, draws := t.draws, inputs := rest } ∧
        (∀ a, a < 0x20000 → readByte t a = readByte s a) ∧
        ∀ w, s.seq = .busy w → ∀ a, 0x20000 ≤ a → Sparse.lookup t.mem a = none) ∧
    (s.rstN = false → ∀ addr n v, (s.inputs = .read addr n :: rest ∨ s.inputs = .write addr n v :: rest) →
      step s = .fault .transactionInReset) ∧
    (s.rstN = false → SequencerNext s → step s = .next (afterEvent s)) ∧
    (s.inputs = .resetHigh :: rest → s.rstN = false → ∃ t, step s = .next t ∧ t.rstN = true ∧ t.seq = .init)

/-- 70_reset_and_hazards.md R241: what the entry to INIT sets, State.reset among it, and how INIT ends. -/
def Obligations.InitSetsTheResetValues : Prop :=
  ∀ (s : State) (rest : List Input),
    (s.inputs = .resetHigh :: rest → s.rstN = false →
      ∃ t, step s = .next t ∧ t.seq = .init ∧ t.curOp = 0 ∧ t.busy = true ∧ t.done = false ∧ t.err = false ∧
        t.overrun = false ∧ t.treeValid = false ∧ t.irqEn = false ∧ t.errInfo = ⟨0, 0, 0⟩ ∧ t.errArg = 0 ∧
        t.ftLen = 0 ∧ t.srcLen = 0 ∧ t.padIn = 0 ∧ t.outLen = 0 ∧ t.padOut = 0 ∧ t.totalBits = 0 ∧ t.nodeCount = 0 ∧
        t.root = 0 ∧ (∀ i, ftAt t.ft i = ⟨0, 0⟩) ∧ (∀ c, ctAt t.ct c = ⟨false, 0, 0⟩) ∧ (∀ n, nodeAt t.arena n = none) ∧
        (∀ a, Sparse.lookup t.mem a = none) ∧
        t = { State.reset with
          params := s.params, inputs := rest, srcDraw := t.srcDraw, dstDraw := t.dstDraw, draws := t.draws }) ∧
    (s.seq = .init → s.rstN = true → SequencerNext s →
      step s = .next { afterEvent s with seq := .idle } ∧
        (s.irq = false → (endInit (afterEvent s)).irq = false))

/-- 10_state.md R45, 60_exceptions.md R219: irq rises only at a completion or by a write that sets CTRL.IRQ_EN; after an acceptance
it is 0, and after a completion it is IRQ_EN. That rst_n going low leaves irq as it is is the model's choice (log entry 9). -/
def Obligations.InterruptRisesAtCompletion : Prop :=
  ∀ s t : State, step s = .next t →
    (s.irq = false → t.irq = true →
      (SequencerNext s ∧ ∃ w, s.seq = .busy w) ∨ ∃ v rest, s.inputs = .write 0x00C .w4 v :: rest ∧ v.getLsbD 0 = true) ∧
    (∀ w, t.seq = .busy w → s.seq = .idle → t.irq = false) ∧
    (∀ w, s.rstN = true → s.seq = .busy w → SequencerNext s → t.irq = s.irqEn)

/-! ## The invariant -/

/-- The invariant holds at reset (70_reset_and_hazards.md R241; BUF_BYTES and the draw counters there are the model's, log entries
7 and 4). -/
def Obligations.ResetSatisfiesInvariant : Prop := State.reset.Inv

/-- Every step keeps the invariant. What it says of states with rst_n low rests on the model's choice of what they hold (log
entry 9), and what it says of the draw counters on log entry 4. -/
def Obligations.StepKeepsInvariant : Prop := ∀ s t : State, s.Inv → step s = .next t → t.Inv

/-- From a state of the invariant, a step stops only on a host transaction while rst_n is low. That the model
stops there is its choice (70_reset_and_hazards.md R240; log entry 9). -/
def Obligations.InvariantStatesNeverStop : Prop := ∀ s : State, s.Inv → HostKeepsReset s → ∃ t, step s = .next t

/-- 60_exceptions.md R229, R214, R217: an accepted command completes at the sequencer's next move, with exactly one of DONE and
ERR. -/
def Obligations.AcceptedCommandsComplete : Prop :=
  ∀ (s : State) (w : Word), s.Inv → s.rstN = true → s.seq = .busy w → SequencerNext s →
    ∃ t, step s = .next t ∧ t.seq = .idle ∧ t.done = !t.err ∧ (t.err = true → t.errInfo.op = opcodeField w) ∧
      (t.done = true → t.errInfo = ⟨0, 0, 0⟩ ∧ t.errArg = 0)

/-! ## NOP and CLEAR -/

/-- 45_control.md R200, 60_exceptions.md R217. -/
def Obligations.NopOnlyCompletes : Prop :=
  ∀ s : State, ∃ t, exec .nop s = .next t ∧ t = { s with done := true, seq := .idle } ∧
    ∀ a, readByte t a = readByte s a

/-- 45_control.md R201. That CUR_OP stays is the model's (log entry 13). -/
def Obligations.ClearDropsTheCodecState : Prop :=
  ∀ s : State, ∃ t, exec .clear s = .next t ∧
    t = { s with
      ft := t.ft, ct := t.ct, arena := t.arena, ftLen := 0, srcLen := 0, padIn := 0, outLen := 0, padOut := 0,
      totalBits := 0, nodeCount := 0, root := 0, treeValid := false, done := true, seq := .idle } ∧
    (∀ i, ftAt t.ft i = ⟨0, 0⟩) ∧ (∀ c, ctAt t.ct c = ⟨false, 0, 0⟩) ∧ (∀ n, nodeAt t.arena n = none) ∧
    ∀ a, readByte t a = readByte s a

/-! ## BUILD_TREE -/

/-- 40_tree_builder.md R102: BUILD_TREE succeeds on every valid table, and its frame. -/
def Obligations.BuildTreeCompletes : Prop :=
  ∀ s : State, ValidTable (ftEntries s.ft s.ftLen.toNat) →
    ∃ t, exec .buildTree s = .next t ∧
      t = { s with
        arena := t.arena, root := t.root, nodeCount := t.nodeCount, treeValid := true, done := true, seq := .idle } ∧
      HoldsTree (ftEntries s.ft s.ftLen.toNat) t

/-- 40_tree_builder.md R104: the layout of the arena after a successful BUILD_TREE. -/
def Obligations.ArenaLayout : Prop :=
  ∀ s t : State, Succeeds .buildTree s t →
    (∀ i, i < s.ftLen.toNat →
      nodeAt t.arena i = some (.leaf (ftAt s.ft i).sym (BitVec.ofNat 40 (ftAt s.ft i).cnt.toNat))) ∧
    (2 ≤ s.ftLen.toNat → t.root.toNat = 2 * s.ftLen.toNat - 2 ∧
      ∀ n, s.ftLen.toNat ≤ n → n ≤ 2 * s.ftLen.toNat - 2 → ∃ f l r, nodeAt t.arena n = some (.internal f l r)) ∧
    (s.ftLen.toNat = 1 → t.root.toNat = 0) ∧
    1 ≤ s.ftLen.toNat ∧ t.nodeCount.toNat = 2 * s.ftLen.toNat - 1 ∧
    (∀ n, t.nodeCount.toNat ≤ n → nodeAt t.arena n = none) ∧
    (∀ n f l r, nodeAt t.arena n = some (.internal f l r) → l.toNat < n ∧ r.toNat < n ∧ l ≠ r) ∧
    ∀ n, n < t.nodeCount.toNat → n ≠ t.root.toNat →
      ∃ j, (∃ f l r, nodeAt t.arena j = some (.internal f l r) ∧ (l.toNat = n ∨ r.toNat = n)) ∧
        ∀ j', (∃ f l r, nodeAt t.arena j' = some (.internal f l r) ∧ (l.toNat = n ∨ r.toNat = n)) → j' = j

/-- 40_tree_builder.md R101, R102: every internal node joins the least and the second least live node, in the order of the keys
(freq, index), LEFT being the first pop; its frequency is the sum of theirs, without overflow (00_scope.md R12). -/
def Obligations.MergesTheTwoLeastNodes : Prop :=
  ∀ s t : State, Succeeds .buildTree s t →
    ∀ n f l r, nodeAt t.arena n = some (.internal f l r) →
      LiveBefore t.arena s.ftLen.toNat n l.toNat ∧ LiveBefore t.arena s.ftLen.toNat n r.toNat ∧
      KeyBelow t.arena l.toNat r.toNat ∧
      (∀ m, LiveBefore t.arena s.ftLen.toNat n m → m ≠ l.toNat → m ≠ r.toNat → KeyBelow t.arena r.toNat m) ∧
      ∃ x y, nodeAt t.arena l.toNat = some x ∧ nodeAt t.arena r.toNat = some y ∧
        f.toNat = x.freq.toNat + y.freq.toNat

/-- 40_tree_builder.md R107: the root's frequency is the sum of the counts, and no child is more frequent than its parent. -/
def Obligations.RootFrequencyIsTheSumOfCounts : Prop :=
  ∀ s t : State, Succeeds .buildTree s t →
    (∃ x, nodeAt t.arena t.root.toNat = some x ∧
      x.freq.toNat = ((ftEntries s.ft s.ftLen.toNat).map fun e => e.cnt.toNat).sum) ∧
    ∀ n f l r c x, nodeAt t.arena n = some (.internal f l r) → (c = l.toNat ∨ c = r.toNat) →
      nodeAt t.arena c = some x → x.freq.toNat ≤ f.toNat

/-- 40_tree_builder.md R106: every symbol of the table has one path; the paths are a prefix-free code, and for k ≥ 2 their
Σ cnt · len is the least over all prefix-free codes of these symbols; for k = 1 the path is empty. -/
def Obligations.TreeIsOptimal : Prop :=
  ∀ s t : State, Succeeds .buildTree s t →
    let es := ftEntries s.ft s.ftLen.toNat
    let prefixFree (code : Byte → List Bool) : Prop :=
      ∀ a ∈ es, ∀ b ∈ es, a.sym ≠ b.sym → ¬ Comparable (code a.sym) (code b.sym)
    ∃ path : Byte → List Bool,
      (∀ e ∈ es, ∀ p, PathTo t.arena t.root.toNat p e.sym ↔ p = path e.sym) ∧
      prefixFree path ∧
      (2 ≤ s.ftLen.toNat → ∀ code, prefixFree code →
        (es.map fun e => e.cnt.toNat * (path e.sym).length).sum ≤ (es.map fun e => e.cnt.toNat * (code e.sym).length).sum) ∧
      (s.ftLen.toNat = 1 → ∀ e ∈ es, path e.sym = [])

/-- 40_tree_builder.md R102, 60_exceptions.md R213: which error BUILD_TREE reports. That DONE is
unchanged is the model's reading of "STATUS.DONE stays 0" (60_exceptions.md R214; log entry 15). -/
def Obligations.BuildTreeErrors : Prop :=
  ∀ s : State,
    let es := ftEntries s.ft s.ftLen.toNat
    let passes (j : Nat) : Prop := (ftAt s.ft j).cnt ≠ 0 ∧ ∀ h, h < j → (ftAt s.ft h).sym ≠ (ftAt s.ft j).sym
    let reports (e : ErrInfo) (arg : Nat) : Prop :=
      ∃ t, exec .buildTree s = .next t ∧ t.err = true ∧ t.done = s.done ∧ t.errInfo = e ∧
        t.errArg = BitVec.ofNat 32 arg ∧ t.seq = .idle
    (256 < s.ftLen.toNat → reports ⟨5, 0x52, s.curOp⟩ s.ftLen.toNat) ∧
    (s.ftLen.toNat = 0 → reports ⟨1, 0x12, s.curOp⟩ 0) ∧
    (es.length ≤ 256 → ∀ i, i < es.length → (∀ j, j < i → passes j) →
      ((ftAt s.ft i).cnt = 0 → reports ⟨1, 0x13, s.curOp⟩ i) ∧
      ((ftAt s.ft i).cnt ≠ 0 → (∃ j, j < i ∧ (ftAt s.ft j).sym = (ftAt s.ft i).sym) → reports ⟨1, 0x14, s.curOp⟩ i))

/-- 40_tree_builder.md R105: what every error completion of BUILD_TREE leaves. -/
def Obligations.BuildTreeErrorOutputs : Prop :=
  ∀ s : State, ¬ ValidTable (ftEntries s.ft s.ftLen.toNat) →
    ∃ t, exec .buildTree s = .next t ∧
      t = { s with
        arena := t.arena, nodeCount := 0, root := 0, treeValid := false,
        err := true, errInfo := t.errInfo, errArg := t.errArg, seq := .idle } ∧
      (∀ n, nodeAt t.arena n = none) ∧ ∀ a, readByte t a = readByte s a

/-! ## ASSIGN_CODES -/

/-- 41_code_assigner.md R121, R122: with a tree of k ≥ 2 leaves none of which is deeper than 32, ASSIGN_CODES gives every symbol of
the tree the path to its leaf and every other symbol no code; and its frame. -/
def Obligations.AssignCodesWritesThePaths : Prop :=
  ∀ (s : State) (es : List FtEntry), s.treeValid = true → HoldsTree es s → 2 ≤ es.length →
    (∀ p c, PathTo s.arena s.root.toNat p c → p.length ≤ 32) →
    ∃ t, exec .assignCodes s = .next t ∧ t = { s with ct := t.ct, done := true, seq := .idle } ∧
      (∀ p c, PathTo s.arena s.root.toNat p c →
        (ctAt t.ct c).valid = true ∧ (ctAt t.ct c).len.toNat = p.length ∧ (ctAt t.ct c).bits.toNat = bitsValue p ∧
          codeOf t.ct c = p) ∧
      (∀ c, (¬ ∃ p, PathTo s.arena s.root.toNat p c) → ctAt t.ct c = ⟨false, 0, 0⟩) ∧
      ∀ a, readByte t a = readByte s a

/-- 41_code_assigner.md R123: the code of a tree of one leaf. -/
def Obligations.SingleLeafGetsOneZeroBit : Prop :=
  ∀ (s : State) (e : FtEntry), s.treeValid = true → HoldsTree [e] s →
    ∃ t, exec .assignCodes s = .next t ∧ t = { s with ct := t.ct, done := true, seq := .idle } ∧
      codeOf t.ct e.sym = [false] ∧
      ∀ c, ctAt t.ct c = if c = e.sym then ⟨true, 1, 0⟩ else ⟨false, 0, 0⟩

/-- 41_code_assigner.md R124: the first leaf in preorder (left before right) that is deeper than 32 is the one reported. -/
def Obligations.CodeTooLongIsReported : Prop :=
  ∀ (s : State) (es : List FtEntry) (p : List Bool) (c : Byte), s.treeValid = true → HoldsTree es s →
    PathTo s.arena s.root.toNat p c → 32 < p.length →
    (∀ q d, PathTo s.arena s.root.toNat q d → 32 < q.length → q = p ∨ PreorderBefore p q) →
    exec .assignCodes s = .next { s with
      ct := [], errInfo := ⟨3, 0x31, s.curOp⟩, errArg := BitVec.ofNat 32 c.toNat, err := true, seq := .idle }

/-- 41_code_assigner.md R126: which symbols have a code after ASSIGN_CODES, on success and on each error, and what it never
writes. -/
def Obligations.AssignCodesTableOutputs : Prop :=
  ∀ s t : State, exec .assignCodes s = .next t →
    (t.err = false → ∀ es, s.treeValid = true → HoldsTree es s → ∀ c, HasCode t.ct c ↔ ∃ e ∈ es, e.sym = c) ∧
    (s.errInfo ≠ ⟨3, 0x31, s.curOp⟩ → t.errInfo = ⟨3, 0x31, s.curOp⟩ → ∀ c, ctAt t.ct c = ⟨false, 0, 0⟩) ∧
    (s.treeValid = false → t.errInfo = ⟨5, 0x54, s.curOp⟩ ∧ t.errArg = 0 ∧ t.err = true ∧ t.ct = s.ct) ∧
    t = { s with ct := t.ct, done := t.done, err := t.err, errInfo := t.errInfo, errArg := t.errArg, seq := .idle } ∧
    ∀ a, readByte t a = readByte s a

/-- 41_code_assigner.md R125: the codes are legal, prefix-free, and complete for k ≥ 2 (the Kraft sum is 1; it is 1/2 for k = 1). -/
def Obligations.AssignedCodesArePrefixFree : Prop :=
  ∀ (s t : State) (es : List FtEntry), s.treeValid = true → HoldsTree es s → Succeeds .assignCodes s t →
    LegalTable t.ct ∧ PrefixFree t.ct ∧
    (2 ≤ es.length → kraftSum t.ct = 2 ^ 32 ∧ CompleteTable t.ct ∧
      ∀ p c, PathTo s.arena s.root.toNat p c → (ctAt t.ct c).len.toNat = p.length) ∧
    (es.length = 1 → kraftSum t.ct = 2 ^ 31)

/-! ## ENCODE -/

/-- 42_bit_packer.md R141, 20_memory.md R69: ENCODE on operands that pass its checks, and its frame: the bytes stored to are
DST[0..N−1]. -/
def Obligations.EncodePacksTheCodes : Prop :=
  ∀ s : State, s.params.wellFormed = true → CanonicalTable s.ct →
    1 ≤ s.srcLen.toNat → s.srcLen.toNat ≤ s.params.bufBytes → LegalTable s.ct →
    (∀ i, i < s.srcLen.toNat → HasCode s.ct (srcByte s i)) →
    let b := bitsOf s.ct (srcBytes s s.srcLen.toNat)
    ceilDiv8 b.length ≤ s.params.bufBytes →
    ∃ t, exec .encode s = .next t ∧
      t = { s with
        mem := t.mem, outLen := t.outLen, padOut := t.padOut, totalBits := t.totalBits, done := true, seq := .idle } ∧
      t.outLen.toNat = ceilDiv8 b.length ∧ t.padOut.toNat = padLength b.length ∧ t.totalBits.toNat = b.length ∧
      (∀ m q, m < ceilDiv8 b.length → q < 8 →
        (readByte t (0x20000 + m)).getLsbD (7 - q) = b.getD (8 * m + q) false) ∧
      ∀ a, a < 0x20000 ∨ 0x20000 + ceilDiv8 b.length ≤ a → readByte t a = readByte s a

/-- 42_bit_packer.md R141, 60_exceptions.md R213: which error ENCODE reports, BAD_CODE_ENTRY apart. That DONE is
unchanged is the model's reading of "STATUS.DONE stays 0" (60_exceptions.md R214; log entry 15). -/
def Obligations.EncodeErrors : Prop :=
  ∀ s : State,
    let reports (e : ErrInfo) (arg : Nat) : Prop :=
      ∃ t, exec .encode s = .next t ∧ t.err = true ∧ t.done = s.done ∧ t.errInfo = e ∧
        t.errArg = BitVec.ofNat 32 arg ∧ t.seq = .idle
    let fits (j : Nat) : Prop := ceilDiv8 (bitsOf s.ct (srcBytes s j)).length ≤ s.params.bufBytes
    (s.params.bufBytes < s.srcLen.toNat → reports ⟨5, 0x53, s.curOp⟩ s.srcLen.toNat) ∧
    (s.srcLen.toNat = 0 → reports ⟨1, 0x11, s.curOp⟩ 0) ∧
    (s.srcLen.toNat ≤ s.params.bufBytes → CanonicalTable s.ct → LegalTable s.ct →
      ∀ i, i < s.srcLen.toNat → (∀ j, j < i → HasCode s.ct (srcByte s j)) → fits i →
        (¬ HasCode s.ct (srcByte s i) → reports ⟨2, 0x21, s.curOp⟩ i) ∧
        (HasCode s.ct (srcByte s i) → ¬ fits (i + 1) → reports ⟨5, 0x55, s.curOp⟩ i))

/-- 42_bit_packer.md R142: ENCODE and DECODE report the first illegal valid entry of CT before they look at a byte of SRC. -/
def Obligations.IllegalEntriesAreReported : Prop :=
  ∀ (s : State) (c : Byte), CanonicalTable s.ct → s.srcLen.toNat ≤ s.params.bufBytes →
    HasCode s.ct c → (ctAt s.ct c).illegal = true →
    (∀ d, d.toNat < c.toNat → HasCode s.ct d → (ctAt s.ct d).illegal = false) →
    (1 ≤ s.srcLen.toNat → ∃ t, exec .encode s = .next t ∧ t.err = true ∧ t.errInfo = ⟨3, 0x32, s.curOp⟩ ∧
      t.errArg = BitVec.ofNat 32 c.toNat) ∧
    ∃ t, exec .decode s = .next t ∧ t.err = true ∧ t.errInfo = ⟨3, 0x32, s.curOp⟩ ∧ t.errArg = BitVec.ofNat 32 c.toNat

/-- 42_bit_packer.md R143: the pad length and the filler bits. -/
def Obligations.PadLengthAndFiller : Prop :=
  ∀ s t : State, s.params.wellFormed = true → Succeeds .encode s t →
    t.padOut.toNat = (8 - t.totalBits.toNat % 8) % 8 ∧ t.padOut.toNat ≤ 7 ∧
    8 * t.outLen.toNat = t.totalBits.toNat + t.padOut.toNat ∧
    ∀ q, q < t.padOut.toNat → (readByte t (0x20000 + (t.outLen.toNat - 1))).getLsbD q = false

/-- 42_bit_packer.md R144: TOTAL_BITS is Σ_s CT[s].len · cnt(s). -/
def Obligations.TotalBitsIsTheWeightedLength : Prop :=
  ∀ s t : State, s.params.wellFormed = true → Succeeds .encode s t →
    t.totalBits.toNat = weightedLength s.ct (srcBytes s s.srcLen.toNat)

/-- 42_bit_packer.md R145, 44_decode_trie.md R186: what an error completion of ENCODE or DECODE leaves. Every DST byte is
UNSPECIFIED: none is listed. -/
def Obligations.CodecErrorOutputs : Prop :=
  ∀ (i : Instr) (s t : State), i = .encode ∨ i = .decode → s.err = false → exec i s = .next t → t.err = true →
    t = { s with
      outLen := 0, padOut := 0, totalBits := 0, mem := t.mem, dstDraw := t.dstDraw, draws := t.draws,
      err := true, errInfo := t.errInfo, errArg := t.errArg, seq := .idle } ∧
    (∀ a, a < 0x20000 → readByte t a = readByte s a) ∧ ∀ a, 0x20000 ≤ a → Sparse.lookup t.mem a = none

/-! ## DECODE -/

/-- 43_bit_unpacker.md R160, R161: what srcbit(t) is, and that unpacking is the inverse of the packing of 20_memory.md R69. -/
def Obligations.UnpackingInvertsPacking : Prop :=
  ∀ s : State,
    (∀ t, t < nbits s → srcBit s t = (readByte s (0x10000 + t / 8)).getLsbD (7 - t % 8)) ∧
    ∀ b : List Bool,
      (∀ m q, m < ceilDiv8 b.length → q < 8 →
        (readByte s (0x10000 + m)).getLsbD (7 - q) = b.getD (8 * m + q) false) →
      s.srcLen.toNat = ceilDiv8 b.length → s.padIn.toNat = 8 * ceilDiv8 b.length - b.length →
      nbits s = b.length ∧ srcBits s = b ∧ ∀ t, t < b.length → srcBit s t = b.getD t false

/-- 44_decode_trie.md R183: DECODE of the codes of a list of symbols of a legal prefix-free table writes these symbols, and its
frame: the bytes stored to are DST[0..|symbols|−1]. -/
def Obligations.DecodeWritesTheSymbols : Prop :=
  ∀ (s : State) (symbols : List Byte), s.params.wellFormed = true → CanonicalTable s.ct →
    s.srcLen.toNat ≤ s.params.bufBytes → LegalTable s.ct → PrefixFree s.ct →
    (∀ c ∈ symbols, HasCode s.ct c) → srcBits s = bitsOf s.ct symbols → symbols.length ≤ s.params.bufBytes →
    ∃ t, exec .decode s = .next t ∧
      t = { s with mem := t.mem, outLen := t.outLen, padOut := 0, totalBits := t.totalBits, done := true, seq := .idle } ∧
      t.outLen.toNat = symbols.length ∧
      t.totalBits.toNat = (if s.srcLen.toNat = 0 then 0 else 8 * s.srcLen.toNat - s.padIn.toNat) ∧
      (∀ (j : Nat) (h : j < symbols.length), readByte t (0x20000 + j) = symbols[j]) ∧
      ∀ a, a < 0x20000 ∨ 0x20000 + symbols.length ≤ a → readByte t a = readByte s a

/-- 44_decode_trie.md R183, R185: the errors of the walk and of the operand check. That DONE is unchanged is the model's
reading of "STATUS.DONE stays 0" (60_exceptions.md R214; log entry 15). -/
def Obligations.DecodeErrors : Prop :=
  ∀ s : State,
    let reports (e : ErrInfo) (arg : Nat) : Prop :=
      ∃ t, exec .decode s = .next t ∧ t.err = true ∧ t.done = s.done ∧ t.errInfo = e ∧
        t.errArg = BitVec.ofNat 32 arg ∧ t.seq = .idle
    (s.params.bufBytes < s.srcLen.toNat → reports ⟨5, 0x53, s.curOp⟩ s.srcLen.toNat) ∧
    (s.srcLen.toNat ≤ s.params.bufBytes → CanonicalTable s.ct → LegalTable s.ct → PrefixFree s.ct →
      ∀ symbols : List Byte, (∀ c ∈ symbols, HasCode s.ct c) → symbols.length ≤ s.params.bufBytes →
        (∀ p b rest, (p = [] ∨ ∃ c, HasCode s.ct c ∧ p <+: codeOf s.ct c) →
          srcBits s = bitsOf s.ct symbols ++ p ++ b :: rest →
          (¬ ∃ c, HasCode s.ct c ∧ (Comparable (p ++ [b]) (codeOf s.ct c))) →
          reports ⟨4, 0x41, s.curOp⟩ ((bitsOf s.ct symbols).length + p.length)) ∧
        (∀ p c, HasCode s.ct c → p <+: codeOf s.ct c → p ≠ codeOf s.ct c → p ≠ [] →
          srcBits s = bitsOf s.ct symbols ++ p →
          reports ⟨4, 0x42, s.curOp⟩ (bitsOf s.ct symbols).length) ∧
        (∀ c rest, HasCode s.ct c → symbols.length = s.params.bufBytes →
          srcBits s = bitsOf s.ct symbols ++ codeOf s.ct c ++ rest →
          reports ⟨5, 0x55, s.curOp⟩ ((bitsOf s.ct symbols).length + (codeOf s.ct c).length - 1)))

/-- 44_decode_trie.md R181: DECODE reports the first symbol, in ascending order, whose code is comparable with the code of an
earlier one, before it walks a bit. -/
def Obligations.CollidingCodesAreReported : Prop :=
  ∀ (s : State) (a c : Byte), s.srcLen.toNat ≤ s.params.bufBytes → CanonicalTable s.ct → LegalTable s.ct →
    HasCode s.ct a → HasCode s.ct c → a.toNat < c.toNat → Comparable (codeOf s.ct a) (codeOf s.ct c) →
    (∀ d e, HasCode s.ct d → HasCode s.ct e → d.toNat < e.toNat → e.toNat < c.toNat →
      ¬ Comparable (codeOf s.ct d) (codeOf s.ct e)) →
    ∃ t, exec .decode s = .next t ∧ t.err = true ∧ t.errInfo = ⟨4, 0x43, s.curOp⟩ ∧ t.errArg = BitVec.ofNat 32 c.toNat

/-- 44_decode_trie.md R181, 00_scope.md R7: a decode trie of a legal table has at most TRIE_NODES nodes. -/
def Obligations.TrieFits : Prop :=
  ∀ (ct : List (Nat × CtEntry)) (trie : Trie), CanonicalTable ct → LegalTable ct → trieOf ct = .ok trie →
    trie.size ≤ 8193

/-- 44_decode_trie.md R188: with a complete table the walk never meets an absent child. -/
def Obligations.CompleteTablesNeverMissAChild : Prop :=
  ∀ s t : State, CanonicalTable s.ct → CompleteTable s.ct → s.errInfo = ⟨0, 0, 0⟩ → exec .decode s = .next t →
    t.errInfo.cause ≠ 0x41

/-- 30_encoding.md R84, 43_bit_unpacker.md R162: the outputs of ENCODE depend on SRC_LEN, SRC[0..SRC_LEN−1] and CT alone, and those
of DECODE on SRC_LEN, PAD_IN, the bits 0..nbits−1 and CT alone: on no pad bit, tree or frequency table. -/
def Obligations.CodecReadsOnlyItsOperands : Prop :=
  ∀ (i : Instr) (s t u : State),
    (i = .encode ∧ (∀ j, j < s.srcLen.toNat → srcByte u j = srcByte s j) ∨
      i = .decode ∧ u.padIn = s.padIn ∧ ∀ j, j < nbits s → srcBit u j = srcBit s j) →
    u.params = s.params → u.srcLen = s.srcLen → u.ct = s.ct → u.err = false → s.params.wellFormed = true →
    Succeeds i s t →
    ∃ v, Succeeds i u v ∧ v.outLen = t.outLen ∧ v.padOut = t.padOut ∧ v.totalBits = t.totalBits ∧
      ∀ j, j < t.outLen.toNat → readByte v (0x20000 + j) = readByte t (0x20000 + j)

/-- 44_decode_trie.md R187: the round trip. The host may do anything between the commands that keeps what the premises name. -/
def Obligations.RoundTripReproducesTheInput : Prop :=
  ∀ (bytes : List Byte) (s1 t1 s2 t2 s3 t3 s4 : State),
    s3.params.wellFormed = true → 1 ≤ bytes.length → bytes.length ≤ s3.params.bufBytes →
    ftEntries s1.ft s1.ftLen.toNat = freqModel bytes → Succeeds .buildTree s1 t1 →
    s2.arena = t1.arena → s2.root = t1.root → s2.treeValid = true → Succeeds .assignCodes s2 t2 →
    s3.ct = t2.ct → s3.srcLen.toNat = bytes.length → srcBytes s3 bytes.length = bytes → Succeeds .encode s3 t3 →
    s4.params = s3.params → s4.ct = t2.ct → s4.srcLen = t3.outLen → s4.padIn = t3.padOut → s4.err = false →
    (∀ j, j < t3.outLen.toNat → srcByte s4 j = readByte t3 (0x20000 + j)) →
    ∃ t4, Succeeds .decode s4 t4 ∧ t4.outLen.toNat = bytes.length ∧
      ∀ (j : Nat) (h : j < bytes.length), readByte t4 (0x20000 + j) = bytes[j]

/-! ## Frames and whole-machine rules -/

/-- 20_memory.md R76, 30_encoding.md R84: NOP, CLEAR, BUILD_TREE and ASSIGN_CODES store to no byte of SRC or DST, and write only
what the operand table gives them. -/
def Obligations.TableCommandsFrame : Prop :=
  ∀ (i : Instr) (s t : State), exec i s = .next t → i ≠ .encode → i ≠ .decode →
    t = { s with
      ft := t.ft, ct := t.ct, arena := t.arena, ftLen := t.ftLen, srcLen := t.srcLen, padIn := t.padIn,
      outLen := t.outLen, padOut := t.padOut, totalBits := t.totalBits, nodeCount := t.nodeCount, root := t.root,
      treeValid := t.treeValid, done := t.done, err := t.err, errInfo := t.errInfo, errArg := t.errArg, seq := .idle } ∧
    (i ≠ .clear → t.ft = s.ft ∧ t.ftLen = s.ftLen ∧ t.srcLen = s.srcLen ∧ t.padIn = s.padIn ∧ t.outLen = s.outLen ∧
      t.padOut = s.padOut ∧ t.totalBits = s.totalBits) ∧
    (i ≠ .clear → i ≠ .buildTree → t.arena = s.arena ∧ t.nodeCount = s.nodeCount ∧ t.root = s.root ∧
      t.treeValid = s.treeValid) ∧
    (i ≠ .clear → i ≠ .assignCodes → t.ct = s.ct) ∧
    ∀ a, readByte t a = readByte s a

/-- 20_memory.md R76, 30_encoding.md R84: ENCODE and DECODE write only DST, OUT_LEN, PAD_OUT, TOTAL_BITS and the completion; on
success they store to DST[0..OUT_LEN−1] only. -/
def Obligations.CodecCommandsFrame : Prop :=
  ∀ (i : Instr) (s t : State), i = .encode ∨ i = .decode → s.params.wellFormed = true → exec i s = .next t →
    t = { s with
      mem := t.mem, dstDraw := t.dstDraw, draws := t.draws, outLen := t.outLen, padOut := t.padOut,
      totalBits := t.totalBits, done := t.done, err := t.err, errInfo := t.errInfo, errArg := t.errArg, seq := .idle } ∧
    (∀ a, a < 0x20000 → readByte t a = readByte s a) ∧
    (t.err = false → t.errInfo = s.errInfo ∧ t.errArg = s.errArg ∧ t.done = true ∧
      ∀ a, 0x20000 + t.outLen.toNat ≤ a → readByte t a = readByte s a)

/-- 10_state.md R23, R37: ARENA, NODE_COUNT, ROOT and TREE_VALID change only by BUILD_TREE, CLEAR and reset; BUF_BYTES never.
That rst_n going low keeps them, so that the reset changes them only when rst_n goes high, is the model's choice (log entry 9). -/
def Obligations.TreeChangesOnlyByItsCommands : Prop :=
  ∀ s t : State, step s = .next t → t.params = s.params ∧
    ((t.arena ≠ s.arena ∨ t.nodeCount ≠ s.nodeCount ∨ t.root ≠ s.root ∨ t.treeValid ≠ s.treeValid) →
      (∃ rest, s.inputs = .resetHigh :: rest) ∨
      (SequencerNext s ∧ (s.seq = .busy (encode .buildTree) ∨ s.seq = .busy (encode .clear))))

/-- 10_state.md R38: a SRC byte changes only by a host write to it in IDLE, or at reset. That rst_n going low keeps SRC, so that
the reset changes it only when rst_n goes high, is the model's choice (log entry 9). -/
def Obligations.SourceChangesOnlyByTheHost : Prop :=
  ∀ (s t : State) (a : Nat), step s = .next t → a < 0x20000 → readByte t a ≠ readByte s a →
    (∃ rest, s.inputs = .resetHigh :: rest) ∨
    ∃ addr n v rest, s.inputs = .write addr n v :: rest ∧ s.busy = false ∧ addr.toNat ≤ a ∧ a < addr.toNat + n.bytes

/-- 10_state.md R25, R23, R48: CTRL changes only by a host write to it or at reset; OVERRUN is set only by a host write while
BUSY = 1. That rst_n going low keeps CTRL and OVERRUN, so that the reset changes them only when rst_n goes high, is the model's
choice (log entry 9). -/
def Obligations.ControlAndOverrunChange : Prop :=
  ∀ s t : State, step s = .next t →
    (t.irqEn ≠ s.irqEn → (∃ rest, s.inputs = .resetHigh :: rest) ∨ ∃ v rest, s.inputs = .write 0x00C .w4 v :: rest) ∧
    (s.overrun = false → t.overrun = true → s.busy = true ∧ ∃ addr n v rest, s.inputs = .write addr n v :: rest)
end

