-- ==== Sys2Proof/Laws/Sparse.lean ====
section
/-! SUPPORT. The laws of sparse tables: read after write, and that every operation keeps the canonical form. -/

namespace Sys2Proof.Machine.Sparse

variable {α : Type}

@[simp] theorem lookup_nil (k : Nat) : lookup ([] : List (Nat × α)) k = none := rfl

theorem lookup_cons (j : Nat) (v : α) (m : List (Nat × α)) (k : Nat) :
    lookup ((j, v) :: m) k = if j = k then some v else lookup m k := rfl

@[simp] theorem lookup_erase (m : List (Nat × α)) (k j : Nat) :
    lookup (erase m k) j = if j = k then none else lookup m j := by
  induction m with
  | nil => simp [erase]
  | cons c m ih =>
    obtain ⟨i, v⟩ := c
    by_cases hi : i = k
    · subst hi
      by_cases hj : j = i
      · subst hj
        simp [erase, ih]
      · simp [erase, ih, hj, lookup_cons, Ne.symm hj]
    · by_cases hj : j = k
      · subst hj
        simp [erase, hi, lookup_cons, ih]
      · simp [erase, hi, lookup_cons, ih, hj]

theorem lookup_insert (m : List (Nat × α)) (k : Nat) (v : α) (j : Nat) (h : lookup m k = none) :
    lookup (insert m k v) j = if j = k then some v else lookup m j := by
  induction m with
  | nil => simp [insert, lookup_cons, eq_comm]
  | cons c m ih =>
    obtain ⟨i, w⟩ := c
    have hi : i ≠ k := by
      intro e
      simp [lookup_cons, e] at h
    have hm : lookup m k = none := by simpa [lookup_cons, hi] using h
    by_cases hk : k < i
    · by_cases hj : j = k
      · simp [insert, hk, lookup_cons, hj]
      · simp [insert, hk, lookup_cons, hj, Ne.symm hj]
    · by_cases hj : j = k
      · subst hj
        simp [insert, hk, lookup_cons, hi, ih hm]
      · simp [insert, hk, lookup_cons, ih hm, hj]

@[simp] theorem lookup_store (m : List (Nat × α)) (k : Nat) (v : α) (j : Nat) :
    lookup (store m k v) j = if j = k then some v else lookup m j := by
  rw [store, lookup_insert _ _ _ _ (by simp)]
  by_cases h : j = k <;> simp [h]

theorem getD_lookup_storeOr [DecidableEq α] (d : α) (m : List (Nat × α)) (k : Nat) (v : α) (j : Nat) :
    (lookup (storeOr d m k v) j).getD d = if j = k then v else (lookup m j).getD d := by
  unfold storeOr
  by_cases hv : v = d <;> by_cases hj : j = k <;> simp [hv, hj]

/-! ## The canonical form -/

theorem sorted_cons (c : Nat × α) (m : List (Nat × α)) :
    sorted (c :: m) = true ↔ (∀ x ∈ m, c.1 < x.1) ∧ sorted m = true := by
  simp [sorted]

theorem mem_erase (m : List (Nat × α)) (k : Nat) (x : Nat × α) (h : x ∈ erase m k) : x ∈ m ∧ x.1 ≠ k := by
  induction m with
  | nil => simp [erase] at h
  | cons c m ih =>
    obtain ⟨i, v⟩ := c
    by_cases hi : i = k
    · rw [erase, if_pos hi] at h
      exact ⟨List.mem_cons_of_mem _ (ih h).1, (ih h).2⟩
    · rw [erase, if_neg hi, List.mem_cons] at h
      rcases h with rfl | h
      · exact ⟨List.mem_cons_self, hi⟩
      · exact ⟨List.mem_cons_of_mem _ (ih h).1, (ih h).2⟩

theorem mem_insert (m : List (Nat × α)) (k : Nat) (v : α) (x : Nat × α) :
    x ∈ insert m k v ↔ x = (k, v) ∨ x ∈ m := by
  induction m with
  | nil => simp [insert]
  | cons c m ih =>
    obtain ⟨i, w⟩ := c
    by_cases hk : k < i
    · simp [insert, hk]
    · simp only [insert, if_neg hk, List.mem_cons, ih]
      tauto

theorem sorted_erase (m : List (Nat × α)) (k : Nat) (h : sorted m = true) : sorted (erase m k) = true := by
  induction m with
  | nil => rfl
  | cons c m ih =>
    obtain ⟨i, v⟩ := c
    rw [sorted_cons] at h
    by_cases hi : i = k
    · rw [erase, if_pos hi]
      exact ih h.2
    · rw [erase, if_neg hi, sorted_cons]
      exact ⟨fun x hx => h.1 x (mem_erase m k x hx).1, ih h.2⟩

theorem sorted_insert (m : List (Nat × α)) (k : Nat) (v : α) (h : sorted m = true) (hk : ∀ x ∈ m, x.1 ≠ k) :
    sorted (insert m k v) = true := by
  induction m with
  | nil => rfl
  | cons c m ih =>
    obtain ⟨i, w⟩ := c
    rw [sorted_cons] at h
    by_cases hlt : k < i
    · rw [insert, if_pos hlt, sorted_cons, sorted_cons]
      refine ⟨fun x hx => ?_, h⟩
      rcases List.mem_cons.1 hx with rfl | hx
      · exact hlt
      · exact lt_trans hlt (h.1 x hx)
    · rw [insert, if_neg hlt, sorted_cons]
      refine ⟨fun x hx => ?_, ih h.2 fun x hx => hk x (List.mem_cons_of_mem _ hx)⟩
      rcases (mem_insert m k v x).1 hx with rfl | hx
      · have := hk (i, w) List.mem_cons_self
        simp only at this ⊢
        omega
      · exact h.1 x hx

theorem sorted_store (m : List (Nat × α)) (k : Nat) (v : α) (h : sorted m = true) : sorted (store m k v) = true :=
  sorted_insert _ k v (sorted_erase m k h) fun x hx => (mem_erase m k x hx).2

theorem wfOr_iff [DecidableEq α] (d : α) (n : Nat) (m : List (Nat × α)) :
    wfOr d n m = true ↔ sorted m = true ∧ ∀ x ∈ m, x.1 < n ∧ x.2 ≠ d := by
  simp [wfOr]

/-- Setting an entry below the bound keeps the canonical form. -/
theorem wfOr_storeOr [DecidableEq α] (d : α) (n : Nat) (m : List (Nat × α)) (k : Nat) (v : α)
    (h : wfOr d n m = true) (hk : k < n) : wfOr d n (storeOr d m k v) = true := by
  rw [wfOr_iff] at h ⊢
  unfold storeOr
  by_cases hv : v = d
  · rw [if_pos hv]
    exact ⟨sorted_erase m k h.1, fun x hx => h.2 x (mem_erase m k x hx).1⟩
  · rw [if_neg hv]
    refine ⟨sorted_store m k v h.1, fun x hx => ?_⟩
    rcases (mem_insert _ k v x).1 hx with rfl | hx
    · exact ⟨hk, hv⟩
    · exact h.2 x (mem_erase m k x hx).1

/-- In canonical form, a listed pair is what its key reads as. -/
theorem lookup_of_mem (m : List (Nat × α)) (h : sorted m = true) (k : Nat) (v : α) (hm : (k, v) ∈ m) :
    lookup m k = some v := by
  induction m with
  | nil => simp at hm
  | cons c m ih =>
    obtain ⟨i, w⟩ := c
    rw [sorted_cons] at h
    rcases List.mem_cons.1 hm with e | hm
    · obtain ⟨rfl, rfl⟩ := Prod.mk.inj e
      simp [lookup_cons]
    · have : i < k := h.1 (k, v) hm
      rw [lookup_cons, if_neg (by omega)]
      exact ih h.2 hm

theorem mem_of_lookup (m : List (Nat × α)) (k : Nat) (v : α) (h : lookup m k = some v) : (k, v) ∈ m := by
  induction m with
  | nil => simp at h
  | cons c m ih =>
    obtain ⟨i, w⟩ := c
    rw [lookup_cons] at h
    by_cases hi : i = k
    · rw [if_pos hi] at h
      simp [hi, Option.some.inj h]
    · rw [if_neg hi] at h
      exact List.mem_cons_of_mem _ (ih h)

/-- Tables in canonical form that read alike are the same data. -/
theorem ext_of_sorted (m n : List (Nat × α)) (hm : sorted m = true) (hn : sorted n = true)
    (h : ∀ k, lookup m k = lookup n k) : m = n := by
  induction m generalizing n with
  | nil =>
    cases n with
    | nil => rfl
    | cons c n =>
      have := h c.1
      rw [lookup, lookup, if_pos rfl] at this
      cases this
  | cons c m ih =>
    cases n with
    | nil =>
      have := h c.1
      rw [lookup, lookup, if_pos rfl] at this
      cases this
    | cons e n =>
      obtain ⟨i, v⟩ := c
      obtain ⟨j, w⟩ := e
      rw [sorted_cons] at hm hn
      have hi : (i, v) ∈ (j, w) :: n := mem_of_lookup _ _ _ ((h i).symm.trans (by simp [lookup_cons]))
      have hj : (j, w) ∈ (i, v) :: m := mem_of_lookup _ _ _ ((h j).trans (by simp [lookup_cons]))
      have hij : i = j := by
        rcases List.mem_cons.1 hi with e | hi
        · exact (Prod.mk.inj e).1
        · rcases List.mem_cons.1 hj with e | hj
          · exact (Prod.mk.inj e).1.symm
          · have h1 := hn.1 _ hi
            have h2 := hm.1 _ hj
            simp only at h1 h2
            omega
      subst hij
      have hv : v = w := by simpa [lookup_cons] using h i
      subst hv
      congr 1
      refine ih n hm.2 hn.2 fun k => ?_
      by_cases hk : i = k
      · subst hk
        have none_of {l : List (Nat × α)} (hl : ∀ x ∈ l, i < x.1) : lookup l i = none := by
          cases hlk : lookup l i with
          | none => rfl
          | some u => exact absurd (hl _ (mem_of_lookup _ _ _ hlk)) (lt_irrefl _)
        rw [none_of hm.1, none_of hn.1]
      · simpa [lookup_cons, hk] using h k

end Sys2Proof.Machine.Sparse
end

