-- ==== Sys2Proof/Laws/Memory.lean ====
section
/-! SUPPORT. The laws of the memory of SRC and DST: every operation keeps the canonical form, and a byte reads as the last write to
it left it. -/

namespace Sys2Proof.Machine

namespace Memory

theorem wf_writeByte (m : List Host.Cell) (a : Nat) (b : Byte) (h : wf m = true) : wf (writeByte m a b) = true :=
  Sparse.sorted_store m a b h

theorem wf_writeBytes (m : List Host.Cell) (a : Nat) (bs : List Byte) (h : wf m = true) :
    wf (writeBytes m a bs) = true := by
  induction bs generalizing m a with
  | nil => exact h
  | cons b bs ih => exact ih _ _ (wf_writeByte m a b h)

theorem mem_dropDst (m : List Host.Cell) (c : Host.Cell) :
    c ∈ dropDst m ↔ c ∈ m ∧ c.1 < Config.dstBase := by
  induction m with
  | nil => simp [dropDst]
  | cons d m ih =>
    by_cases hd : d.1 < Config.dstBase
    · simp only [dropDst, if_pos hd, List.mem_cons, ih]
      constructor
      · rintro (rfl | h)
        · exact ⟨.inl rfl, hd⟩
        · exact ⟨.inr h.1, h.2⟩
      · rintro ⟨rfl | h, hc⟩
        · exact .inl rfl
        · exact .inr ⟨h, hc⟩
    · simp only [dropDst, if_neg hd, List.mem_cons, ih]
      constructor
      · exact fun h => ⟨.inr h.1, h.2⟩
      · rintro ⟨rfl | h, hc⟩
        · exact absurd hc hd
        · exact ⟨h, hc⟩

theorem wf_dropDst (m : List Host.Cell) (h : wf m = true) : wf (dropDst m) = true := by
  unfold wf at h ⊢
  induction m with
  | nil => rfl
  | cons c m ih =>
    rw [Sparse.sorted_cons] at h
    by_cases hc : c.1 < Config.dstBase
    · rw [dropDst, if_pos hc, Sparse.sorted_cons]
      exact ⟨fun x hx => h.1 x ((mem_dropDst m x).1 hx).1, ih h.2⟩
    · rw [dropDst, if_neg hc]
      exact ih h.2

@[simp] theorem lookup_writeByte (m : List Host.Cell) (a : Nat) (b : Byte) (x : Nat) :
    Sparse.lookup (writeByte m a b) x = if x = a then some b else Sparse.lookup m x :=
  Sparse.lookup_store m a b x

/-- What a byte is after bytes were written from offset `a` on. -/
theorem lookup_writeBytes (m : List Host.Cell) (a : Nat) (bs : List Byte) (x : Nat) :
    Sparse.lookup (writeBytes m a bs) x =
      if h : a ≤ x ∧ x - a < bs.length then some (bs[x - a]'h.2) else Sparse.lookup m x := by
  induction bs generalizing m a with
  | nil => simp [writeBytes]
  | cons b bs ih =>
    rw [writeBytes, ih]
    by_cases h1 : a + 1 ≤ x ∧ x - (a + 1) < bs.length
    · have h2 : a ≤ x ∧ x - a < (b :: bs).length := by
        simp only [List.length_cons]
        omega
      rw [dif_pos h1, dif_pos h2]
      have : x - a = (x - (a + 1)) + 1 := by omega
      simp [this]
    · rw [dif_neg h1, lookup_writeByte]
      by_cases hx : x = a
      · subst hx
        simp
      · have h2 : ¬ (a ≤ x ∧ x - a < (b :: bs).length) := by
          simp only [List.length_cons]
          omega
        rw [if_neg hx, dif_neg h2]

@[simp] theorem lookup_dropDst (m : List Host.Cell) (x : Nat) :
    Sparse.lookup (dropDst m) x = if x < Config.dstBase then Sparse.lookup m x else none := by
  induction m with
  | nil => simp [dropDst]
  | cons c m ih =>
    obtain ⟨i, v⟩ := c
    by_cases hi : i < Config.dstBase
    · rw [dropDst, if_pos hi, Sparse.lookup_cons, Sparse.lookup_cons, ih]
      by_cases hx : i = x
      · subst hx
        simp [hi]
      · simp [hx]
    · rw [dropDst, if_neg hi, ih, Sparse.lookup_cons]
      by_cases hx : i = x
      · subst hx
        simp [hi]
      · simp [hx]

/-- The cells of bytes written inside SRC or DST lie in SRC or DST. -/
theorem inBuffers_writeBytes (p : Params) (m : List Host.Cell) (a : Nat) (bs : List Byte) (h : inBuffers p m = true)
    (ha : (Config.srcBase ≤ a ∧ a + bs.length ≤ Config.srcBase + p.bufBytes) ∨
      (Config.dstBase ≤ a ∧ a + bs.length ≤ Config.dstBase + p.bufBytes)) :
    inBuffers p (writeBytes m a bs) = true := by
  induction bs generalizing m a with
  | nil => exact h
  | cons b bs ih =>
    simp only [List.length_cons] at ha
    refine ih _ _ ?_ (by omega)
    unfold inBuffers at h ⊢
    rw [List.all_eq_true] at h ⊢
    intro c hc
    rcases (Sparse.mem_insert _ a b c).1 hc with rfl | hc
    · simp only [Bool.or_eq_true, Bool.and_eq_true, decide_eq_true_eq]
      omega
    · exact h c (Sparse.mem_erase m a c hc).1

theorem inBuffers_dropDst (p : Params) (m : List Host.Cell) (h : inBuffers p m = true) :
    inBuffers p (dropDst m) = true := by
  unfold inBuffers at h ⊢
  rw [List.all_eq_true] at h ⊢
  exact fun c hc => h c ((mem_dropDst m c).1 hc).1

end Memory

/-- A byte after bytes were written to the memory. -/
theorem readByte_writeBytes (s : State) (a : Nat) (bs : List Byte) (x : Nat) :
    readByte { s with mem := Memory.writeBytes s.mem a bs } x =
      if h : a ≤ x ∧ x - a < bs.length then bs[x - a]'h.2 else readByte s x := by
  unfold readByte unlistedByte
  rw [Memory.lookup_writeBytes]
  split <;> simp

/-- A new draw of DST leaves every byte below DST as it was. -/
theorem readByte_unspecifyDst (s : State) (x : Nat) (h : x < Config.dstBase) :
    readByte (unspecifyDst s) x = readByte s x := by
  simp [readByte, unlistedByte, unspecifyDst, h]

/-- A byte depends on the memory and the draws alone. -/
theorem readByte_congr (s t : State) (hm : t.mem = s.mem) (h1 : t.srcDraw = s.srcDraw) (h2 : t.dstDraw = s.dstDraw)
    (x : Nat) : readByte t x = readByte s x := by
  simp [readByte, unlistedByte, hm, h1, h2]

end Sys2Proof.Machine
end

