-- ==== Sys2Proof/Laws/State.lean ====
section
/-! SUPPORT. One lemma for each field of each named update of State, true by rfl. -/

namespace Sys2Proof.Machine

variable (s : State)
@[simp] theorem acceptCommand_params (w : Word) : (acceptCommand w s).params = s.params := rfl
@[simp] theorem acceptCommand_rstN (w : Word) : (acceptCommand w s).rstN = s.rstN := rfl
@[simp] theorem acceptCommand_seq (w : Word) : (acceptCommand w s).seq = .busy w := rfl
@[simp] theorem acceptCommand_curOp (w : Word) : (acceptCommand w s).curOp = w.extractLsb' 0 4 := rfl
@[simp] theorem acceptCommand_done (w : Word) : (acceptCommand w s).done = false := rfl
@[simp] theorem acceptCommand_err (w : Word) : (acceptCommand w s).err = false := rfl
@[simp] theorem acceptCommand_overrun (w : Word) : (acceptCommand w s).overrun = s.overrun := rfl
@[simp] theorem acceptCommand_treeValid (w : Word) : (acceptCommand w s).treeValid = s.treeValid := rfl
@[simp] theorem acceptCommand_irqEn (w : Word) : (acceptCommand w s).irqEn = s.irqEn := rfl
@[simp] theorem acceptCommand_errInfo (w : Word) : (acceptCommand w s).errInfo = noError := rfl
@[simp] theorem acceptCommand_errArg (w : Word) : (acceptCommand w s).errArg = 0 := rfl
@[simp] theorem acceptCommand_ftLen (w : Word) : (acceptCommand w s).ftLen = s.ftLen := rfl
@[simp] theorem acceptCommand_srcLen (w : Word) : (acceptCommand w s).srcLen = s.srcLen := rfl
@[simp] theorem acceptCommand_padIn (w : Word) : (acceptCommand w s).padIn = s.padIn := rfl
@[simp] theorem acceptCommand_outLen (w : Word) : (acceptCommand w s).outLen = s.outLen := rfl
@[simp] theorem acceptCommand_padOut (w : Word) : (acceptCommand w s).padOut = s.padOut := rfl
@[simp] theorem acceptCommand_totalBits (w : Word) : (acceptCommand w s).totalBits = s.totalBits := rfl
@[simp] theorem acceptCommand_nodeCount (w : Word) : (acceptCommand w s).nodeCount = s.nodeCount := rfl
@[simp] theorem acceptCommand_root (w : Word) : (acceptCommand w s).root = s.root := rfl
@[simp] theorem acceptCommand_ft (w : Word) : (acceptCommand w s).ft = s.ft := rfl
@[simp] theorem acceptCommand_ct (w : Word) : (acceptCommand w s).ct = s.ct := rfl
@[simp] theorem acceptCommand_arena (w : Word) : (acceptCommand w s).arena = s.arena := rfl
@[simp] theorem acceptCommand_mem (w : Word) : (acceptCommand w s).mem = s.mem := rfl
@[simp] theorem acceptCommand_srcDraw (w : Word) : (acceptCommand w s).srcDraw = s.srcDraw := rfl
@[simp] theorem acceptCommand_dstDraw (w : Word) : (acceptCommand w s).dstDraw = s.dstDraw := rfl
@[simp] theorem acceptCommand_draws (w : Word) : (acceptCommand w s).draws = s.draws := rfl
@[simp] theorem acceptCommand_inputs (w : Word) : (acceptCommand w s).inputs = s.inputs := rfl
@[simp] theorem acceptCommand_resp (w : Word) : (acceptCommand w s).resp = s.resp := rfl

@[simp] theorem completeOk_params : (completeOk s).params = s.params := rfl
@[simp] theorem completeOk_rstN : (completeOk s).rstN = s.rstN := rfl
@[simp] theorem completeOk_seq : (completeOk s).seq = .idle := rfl
@[simp] theorem completeOk_curOp : (completeOk s).curOp = s.curOp := rfl
@[simp] theorem completeOk_done : (completeOk s).done = true := rfl
@[simp] theorem completeOk_err : (completeOk s).err = s.err := rfl
@[simp] theorem completeOk_overrun : (completeOk s).overrun = s.overrun := rfl
@[simp] theorem completeOk_treeValid : (completeOk s).treeValid = s.treeValid := rfl
@[simp] theorem completeOk_irqEn : (completeOk s).irqEn = s.irqEn := rfl
@[simp] theorem completeOk_errInfo : (completeOk s).errInfo = s.errInfo := rfl
@[simp] theorem completeOk_errArg : (completeOk s).errArg = s.errArg := rfl
@[simp] theorem completeOk_ftLen : (completeOk s).ftLen = s.ftLen := rfl
@[simp] theorem completeOk_srcLen : (completeOk s).srcLen = s.srcLen := rfl
@[simp] theorem completeOk_padIn : (completeOk s).padIn = s.padIn := rfl
@[simp] theorem completeOk_outLen : (completeOk s).outLen = s.outLen := rfl
@[simp] theorem completeOk_padOut : (completeOk s).padOut = s.padOut := rfl
@[simp] theorem completeOk_totalBits : (completeOk s).totalBits = s.totalBits := rfl
@[simp] theorem completeOk_nodeCount : (completeOk s).nodeCount = s.nodeCount := rfl
@[simp] theorem completeOk_root : (completeOk s).root = s.root := rfl
@[simp] theorem completeOk_ft : (completeOk s).ft = s.ft := rfl
@[simp] theorem completeOk_ct : (completeOk s).ct = s.ct := rfl
@[simp] theorem completeOk_arena : (completeOk s).arena = s.arena := rfl
@[simp] theorem completeOk_mem : (completeOk s).mem = s.mem := rfl
@[simp] theorem completeOk_srcDraw : (completeOk s).srcDraw = s.srcDraw := rfl
@[simp] theorem completeOk_dstDraw : (completeOk s).dstDraw = s.dstDraw := rfl
@[simp] theorem completeOk_draws : (completeOk s).draws = s.draws := rfl
@[simp] theorem completeOk_inputs : (completeOk s).inputs = s.inputs := rfl
@[simp] theorem completeOk_resp : (completeOk s).resp = s.resp := rfl

@[simp] theorem completeErr_params (r : Raise) : (completeErr r s).params = s.params := rfl
@[simp] theorem completeErr_rstN (r : Raise) : (completeErr r s).rstN = s.rstN := rfl
@[simp] theorem completeErr_seq (r : Raise) : (completeErr r s).seq = .idle := rfl
@[simp] theorem completeErr_curOp (r : Raise) : (completeErr r s).curOp = s.curOp := rfl
@[simp] theorem completeErr_done (r : Raise) : (completeErr r s).done = s.done := rfl
@[simp] theorem completeErr_err (r : Raise) : (completeErr r s).err = true := rfl
@[simp] theorem completeErr_overrun (r : Raise) : (completeErr r s).overrun = s.overrun := rfl
@[simp] theorem completeErr_treeValid (r : Raise) : (completeErr r s).treeValid = s.treeValid := rfl
@[simp] theorem completeErr_irqEn (r : Raise) : (completeErr r s).irqEn = s.irqEn := rfl
@[simp] theorem completeErr_errInfo (r : Raise) : (completeErr r s).errInfo = r.cause.errInfo s.curOp := rfl
@[simp] theorem completeErr_errArg (r : Raise) : (completeErr r s).errArg = r.arg := rfl
@[simp] theorem completeErr_ftLen (r : Raise) : (completeErr r s).ftLen = s.ftLen := rfl
@[simp] theorem completeErr_srcLen (r : Raise) : (completeErr r s).srcLen = s.srcLen := rfl
@[simp] theorem completeErr_padIn (r : Raise) : (completeErr r s).padIn = s.padIn := rfl
@[simp] theorem completeErr_outLen (r : Raise) : (completeErr r s).outLen = s.outLen := rfl
@[simp] theorem completeErr_padOut (r : Raise) : (completeErr r s).padOut = s.padOut := rfl
@[simp] theorem completeErr_totalBits (r : Raise) : (completeErr r s).totalBits = s.totalBits := rfl
@[simp] theorem completeErr_nodeCount (r : Raise) : (completeErr r s).nodeCount = s.nodeCount := rfl
@[simp] theorem completeErr_root (r : Raise) : (completeErr r s).root = s.root := rfl
@[simp] theorem completeErr_ft (r : Raise) : (completeErr r s).ft = s.ft := rfl
@[simp] theorem completeErr_ct (r : Raise) : (completeErr r s).ct = s.ct := rfl
@[simp] theorem completeErr_arena (r : Raise) : (completeErr r s).arena = s.arena := rfl
@[simp] theorem completeErr_mem (r : Raise) : (completeErr r s).mem = s.mem := rfl
@[simp] theorem completeErr_srcDraw (r : Raise) : (completeErr r s).srcDraw = s.srcDraw := rfl
@[simp] theorem completeErr_dstDraw (r : Raise) : (completeErr r s).dstDraw = s.dstDraw := rfl
@[simp] theorem completeErr_draws (r : Raise) : (completeErr r s).draws = s.draws := rfl
@[simp] theorem completeErr_inputs (r : Raise) : (completeErr r s).inputs = s.inputs := rfl
@[simp] theorem completeErr_resp (r : Raise) : (completeErr r s).resp = s.resp := rfl

@[simp] theorem dropTree_params : (dropTree s).params = s.params := rfl
@[simp] theorem dropTree_rstN : (dropTree s).rstN = s.rstN := rfl
@[simp] theorem dropTree_seq : (dropTree s).seq = s.seq := rfl
@[simp] theorem dropTree_curOp : (dropTree s).curOp = s.curOp := rfl
@[simp] theorem dropTree_done : (dropTree s).done = s.done := rfl
@[simp] theorem dropTree_err : (dropTree s).err = s.err := rfl
@[simp] theorem dropTree_overrun : (dropTree s).overrun = s.overrun := rfl
@[simp] theorem dropTree_treeValid : (dropTree s).treeValid = false := rfl
@[simp] theorem dropTree_irqEn : (dropTree s).irqEn = s.irqEn := rfl
@[simp] theorem dropTree_errInfo : (dropTree s).errInfo = s.errInfo := rfl
@[simp] theorem dropTree_errArg : (dropTree s).errArg = s.errArg := rfl
@[simp] theorem dropTree_ftLen : (dropTree s).ftLen = s.ftLen := rfl
@[simp] theorem dropTree_srcLen : (dropTree s).srcLen = s.srcLen := rfl
@[simp] theorem dropTree_padIn : (dropTree s).padIn = s.padIn := rfl
@[simp] theorem dropTree_outLen : (dropTree s).outLen = s.outLen := rfl
@[simp] theorem dropTree_padOut : (dropTree s).padOut = s.padOut := rfl
@[simp] theorem dropTree_totalBits : (dropTree s).totalBits = s.totalBits := rfl
@[simp] theorem dropTree_nodeCount : (dropTree s).nodeCount = 0 := rfl
@[simp] theorem dropTree_root : (dropTree s).root = 0 := rfl
@[simp] theorem dropTree_ft : (dropTree s).ft = s.ft := rfl
@[simp] theorem dropTree_ct : (dropTree s).ct = s.ct := rfl
@[simp] theorem dropTree_arena : (dropTree s).arena = [] := rfl
@[simp] theorem dropTree_mem : (dropTree s).mem = s.mem := rfl
@[simp] theorem dropTree_srcDraw : (dropTree s).srcDraw = s.srcDraw := rfl
@[simp] theorem dropTree_dstDraw : (dropTree s).dstDraw = s.dstDraw := rfl
@[simp] theorem dropTree_draws : (dropTree s).draws = s.draws := rfl
@[simp] theorem dropTree_inputs : (dropTree s).inputs = s.inputs := rfl
@[simp] theorem dropTree_resp : (dropTree s).resp = s.resp := rfl

@[simp] theorem setTree_params (a : List Node) (n : BitVec 9) : (setTree a n s).params = s.params := rfl
@[simp] theorem setTree_rstN (a : List Node) (n : BitVec 9) : (setTree a n s).rstN = s.rstN := rfl
@[simp] theorem setTree_seq (a : List Node) (n : BitVec 9) : (setTree a n s).seq = s.seq := rfl
@[simp] theorem setTree_curOp (a : List Node) (n : BitVec 9) : (setTree a n s).curOp = s.curOp := rfl
@[simp] theorem setTree_done (a : List Node) (n : BitVec 9) : (setTree a n s).done = s.done := rfl
@[simp] theorem setTree_err (a : List Node) (n : BitVec 9) : (setTree a n s).err = s.err := rfl
@[simp] theorem setTree_overrun (a : List Node) (n : BitVec 9) : (setTree a n s).overrun = s.overrun := rfl
@[simp] theorem setTree_treeValid (a : List Node) (n : BitVec 9) : (setTree a n s).treeValid = true := rfl
@[simp] theorem setTree_irqEn (a : List Node) (n : BitVec 9) : (setTree a n s).irqEn = s.irqEn := rfl
@[simp] theorem setTree_errInfo (a : List Node) (n : BitVec 9) : (setTree a n s).errInfo = s.errInfo := rfl
@[simp] theorem setTree_errArg (a : List Node) (n : BitVec 9) : (setTree a n s).errArg = s.errArg := rfl
@[simp] theorem setTree_ftLen (a : List Node) (n : BitVec 9) : (setTree a n s).ftLen = s.ftLen := rfl
@[simp] theorem setTree_srcLen (a : List Node) (n : BitVec 9) : (setTree a n s).srcLen = s.srcLen := rfl
@[simp] theorem setTree_padIn (a : List Node) (n : BitVec 9) : (setTree a n s).padIn = s.padIn := rfl
@[simp] theorem setTree_outLen (a : List Node) (n : BitVec 9) : (setTree a n s).outLen = s.outLen := rfl
@[simp] theorem setTree_padOut (a : List Node) (n : BitVec 9) : (setTree a n s).padOut = s.padOut := rfl
@[simp] theorem setTree_totalBits (a : List Node) (n : BitVec 9) : (setTree a n s).totalBits = s.totalBits := rfl
@[simp] theorem setTree_nodeCount (a : List Node) (n : BitVec 9) : (setTree a n s).nodeCount = BitVec.ofNat 9 a.length := rfl
@[simp] theorem setTree_root (a : List Node) (n : BitVec 9) : (setTree a n s).root = n := rfl
@[simp] theorem setTree_ft (a : List Node) (n : BitVec 9) : (setTree a n s).ft = s.ft := rfl
@[simp] theorem setTree_ct (a : List Node) (n : BitVec 9) : (setTree a n s).ct = s.ct := rfl
@[simp] theorem setTree_arena (a : List Node) (n : BitVec 9) : (setTree a n s).arena = a := rfl
@[simp] theorem setTree_mem (a : List Node) (n : BitVec 9) : (setTree a n s).mem = s.mem := rfl
@[simp] theorem setTree_srcDraw (a : List Node) (n : BitVec 9) : (setTree a n s).srcDraw = s.srcDraw := rfl
@[simp] theorem setTree_dstDraw (a : List Node) (n : BitVec 9) : (setTree a n s).dstDraw = s.dstDraw := rfl
@[simp] theorem setTree_draws (a : List Node) (n : BitVec 9) : (setTree a n s).draws = s.draws := rfl
@[simp] theorem setTree_inputs (a : List Node) (n : BitVec 9) : (setTree a n s).inputs = s.inputs := rfl
@[simp] theorem setTree_resp (a : List Node) (n : BitVec 9) : (setTree a n s).resp = s.resp := rfl

@[simp] theorem setCodeTable_params (c : List (Nat × CtEntry)) : (setCodeTable c s).params = s.params := rfl
@[simp] theorem setCodeTable_rstN (c : List (Nat × CtEntry)) : (setCodeTable c s).rstN = s.rstN := rfl
@[simp] theorem setCodeTable_seq (c : List (Nat × CtEntry)) : (setCodeTable c s).seq = s.seq := rfl
@[simp] theorem setCodeTable_curOp (c : List (Nat × CtEntry)) : (setCodeTable c s).curOp = s.curOp := rfl
@[simp] theorem setCodeTable_done (c : List (Nat × CtEntry)) : (setCodeTable c s).done = s.done := rfl
@[simp] theorem setCodeTable_err (c : List (Nat × CtEntry)) : (setCodeTable c s).err = s.err := rfl
@[simp] theorem setCodeTable_overrun (c : List (Nat × CtEntry)) : (setCodeTable c s).overrun = s.overrun := rfl
@[simp] theorem setCodeTable_treeValid (c : List (Nat × CtEntry)) : (setCodeTable c s).treeValid = s.treeValid := rfl
@[simp] theorem setCodeTable_irqEn (c : List (Nat × CtEntry)) : (setCodeTable c s).irqEn = s.irqEn := rfl
@[simp] theorem setCodeTable_errInfo (c : List (Nat × CtEntry)) : (setCodeTable c s).errInfo = s.errInfo := rfl
@[simp] theorem setCodeTable_errArg (c : List (Nat × CtEntry)) : (setCodeTable c s).errArg = s.errArg := rfl
@[simp] theorem setCodeTable_ftLen (c : List (Nat × CtEntry)) : (setCodeTable c s).ftLen = s.ftLen := rfl
@[simp] theorem setCodeTable_srcLen (c : List (Nat × CtEntry)) : (setCodeTable c s).srcLen = s.srcLen := rfl
@[simp] theorem setCodeTable_padIn (c : List (Nat × CtEntry)) : (setCodeTable c s).padIn = s.padIn := rfl
@[simp] theorem setCodeTable_outLen (c : List (Nat × CtEntry)) : (setCodeTable c s).outLen = s.outLen := rfl
@[simp] theorem setCodeTable_padOut (c : List (Nat × CtEntry)) : (setCodeTable c s).padOut = s.padOut := rfl
@[simp] theorem setCodeTable_totalBits (c : List (Nat × CtEntry)) : (setCodeTable c s).totalBits = s.totalBits := rfl
@[simp] theorem setCodeTable_nodeCount (c : List (Nat × CtEntry)) : (setCodeTable c s).nodeCount = s.nodeCount := rfl
@[simp] theorem setCodeTable_root (c : List (Nat × CtEntry)) : (setCodeTable c s).root = s.root := rfl
@[simp] theorem setCodeTable_ft (c : List (Nat × CtEntry)) : (setCodeTable c s).ft = s.ft := rfl
@[simp] theorem setCodeTable_ct (c : List (Nat × CtEntry)) : (setCodeTable c s).ct = c := rfl
@[simp] theorem setCodeTable_arena (c : List (Nat × CtEntry)) : (setCodeTable c s).arena = s.arena := rfl
@[simp] theorem setCodeTable_mem (c : List (Nat × CtEntry)) : (setCodeTable c s).mem = s.mem := rfl
@[simp] theorem setCodeTable_srcDraw (c : List (Nat × CtEntry)) : (setCodeTable c s).srcDraw = s.srcDraw := rfl
@[simp] theorem setCodeTable_dstDraw (c : List (Nat × CtEntry)) : (setCodeTable c s).dstDraw = s.dstDraw := rfl
@[simp] theorem setCodeTable_draws (c : List (Nat × CtEntry)) : (setCodeTable c s).draws = s.draws := rfl
@[simp] theorem setCodeTable_inputs (c : List (Nat × CtEntry)) : (setCodeTable c s).inputs = s.inputs := rfl
@[simp] theorem setCodeTable_resp (c : List (Nat × CtEntry)) : (setCodeTable c s).resp = s.resp := rfl

@[simp] theorem unspecifyDst_params : (unspecifyDst s).params = s.params := rfl
@[simp] theorem unspecifyDst_rstN : (unspecifyDst s).rstN = s.rstN := rfl
@[simp] theorem unspecifyDst_seq : (unspecifyDst s).seq = s.seq := rfl
@[simp] theorem unspecifyDst_curOp : (unspecifyDst s).curOp = s.curOp := rfl
@[simp] theorem unspecifyDst_done : (unspecifyDst s).done = s.done := rfl
@[simp] theorem unspecifyDst_err : (unspecifyDst s).err = s.err := rfl
@[simp] theorem unspecifyDst_overrun : (unspecifyDst s).overrun = s.overrun := rfl
@[simp] theorem unspecifyDst_treeValid : (unspecifyDst s).treeValid = s.treeValid := rfl
@[simp] theorem unspecifyDst_irqEn : (unspecifyDst s).irqEn = s.irqEn := rfl
@[simp] theorem unspecifyDst_errInfo : (unspecifyDst s).errInfo = s.errInfo := rfl
@[simp] theorem unspecifyDst_errArg : (unspecifyDst s).errArg = s.errArg := rfl
@[simp] theorem unspecifyDst_ftLen : (unspecifyDst s).ftLen = s.ftLen := rfl
@[simp] theorem unspecifyDst_srcLen : (unspecifyDst s).srcLen = s.srcLen := rfl
@[simp] theorem unspecifyDst_padIn : (unspecifyDst s).padIn = s.padIn := rfl
@[simp] theorem unspecifyDst_outLen : (unspecifyDst s).outLen = s.outLen := rfl
@[simp] theorem unspecifyDst_padOut : (unspecifyDst s).padOut = s.padOut := rfl
@[simp] theorem unspecifyDst_totalBits : (unspecifyDst s).totalBits = s.totalBits := rfl
@[simp] theorem unspecifyDst_nodeCount : (unspecifyDst s).nodeCount = s.nodeCount := rfl
@[simp] theorem unspecifyDst_root : (unspecifyDst s).root = s.root := rfl
@[simp] theorem unspecifyDst_ft : (unspecifyDst s).ft = s.ft := rfl
@[simp] theorem unspecifyDst_ct : (unspecifyDst s).ct = s.ct := rfl
@[simp] theorem unspecifyDst_arena : (unspecifyDst s).arena = s.arena := rfl
@[simp] theorem unspecifyDst_mem : (unspecifyDst s).mem = Memory.dropDst s.mem := rfl
@[simp] theorem unspecifyDst_srcDraw : (unspecifyDst s).srcDraw = s.srcDraw := rfl
@[simp] theorem unspecifyDst_dstDraw : (unspecifyDst s).dstDraw = s.draws := rfl
@[simp] theorem unspecifyDst_draws : (unspecifyDst s).draws = s.draws + 1 := rfl
@[simp] theorem unspecifyDst_inputs : (unspecifyDst s).inputs = s.inputs := rfl
@[simp] theorem unspecifyDst_resp : (unspecifyDst s).resp = s.resp := rfl

@[simp] theorem dropOutput_params : (dropOutput s).params = s.params := rfl
@[simp] theorem dropOutput_rstN : (dropOutput s).rstN = s.rstN := rfl
@[simp] theorem dropOutput_seq : (dropOutput s).seq = s.seq := rfl
@[simp] theorem dropOutput_curOp : (dropOutput s).curOp = s.curOp := rfl
@[simp] theorem dropOutput_done : (dropOutput s).done = s.done := rfl
@[simp] theorem dropOutput_err : (dropOutput s).err = s.err := rfl
@[simp] theorem dropOutput_overrun : (dropOutput s).overrun = s.overrun := rfl
@[simp] theorem dropOutput_treeValid : (dropOutput s).treeValid = s.treeValid := rfl
@[simp] theorem dropOutput_irqEn : (dropOutput s).irqEn = s.irqEn := rfl
@[simp] theorem dropOutput_errInfo : (dropOutput s).errInfo = s.errInfo := rfl
@[simp] theorem dropOutput_errArg : (dropOutput s).errArg = s.errArg := rfl
@[simp] theorem dropOutput_ftLen : (dropOutput s).ftLen = s.ftLen := rfl
@[simp] theorem dropOutput_srcLen : (dropOutput s).srcLen = s.srcLen := rfl
@[simp] theorem dropOutput_padIn : (dropOutput s).padIn = s.padIn := rfl
@[simp] theorem dropOutput_outLen : (dropOutput s).outLen = 0 := rfl
@[simp] theorem dropOutput_padOut : (dropOutput s).padOut = 0 := rfl
@[simp] theorem dropOutput_totalBits : (dropOutput s).totalBits = 0 := rfl
@[simp] theorem dropOutput_nodeCount : (dropOutput s).nodeCount = s.nodeCount := rfl
@[simp] theorem dropOutput_root : (dropOutput s).root = s.root := rfl
@[simp] theorem dropOutput_ft : (dropOutput s).ft = s.ft := rfl
@[simp] theorem dropOutput_ct : (dropOutput s).ct = s.ct := rfl
@[simp] theorem dropOutput_arena : (dropOutput s).arena = s.arena := rfl
@[simp] theorem dropOutput_mem : (dropOutput s).mem = Memory.dropDst s.mem := rfl
@[simp] theorem dropOutput_srcDraw : (dropOutput s).srcDraw = s.srcDraw := rfl
@[simp] theorem dropOutput_dstDraw : (dropOutput s).dstDraw = s.draws := rfl
@[simp] theorem dropOutput_draws : (dropOutput s).draws = s.draws + 1 := rfl
@[simp] theorem dropOutput_inputs : (dropOutput s).inputs = s.inputs := rfl
@[simp] theorem dropOutput_resp : (dropOutput s).resp = s.resp := rfl

@[simp] theorem setOutput_params (b : List Byte) (p n : Nat) : (setOutput b p n s).params = s.params := rfl
@[simp] theorem setOutput_rstN (b : List Byte) (p n : Nat) : (setOutput b p n s).rstN = s.rstN := rfl
@[simp] theorem setOutput_seq (b : List Byte) (p n : Nat) : (setOutput b p n s).seq = s.seq := rfl
@[simp] theorem setOutput_curOp (b : List Byte) (p n : Nat) : (setOutput b p n s).curOp = s.curOp := rfl
@[simp] theorem setOutput_done (b : List Byte) (p n : Nat) : (setOutput b p n s).done = s.done := rfl
@[simp] theorem setOutput_err (b : List Byte) (p n : Nat) : (setOutput b p n s).err = s.err := rfl
@[simp] theorem setOutput_overrun (b : List Byte) (p n : Nat) : (setOutput b p n s).overrun = s.overrun := rfl
@[simp] theorem setOutput_treeValid (b : List Byte) (p n : Nat) : (setOutput b p n s).treeValid = s.treeValid := rfl
@[simp] theorem setOutput_irqEn (b : List Byte) (p n : Nat) : (setOutput b p n s).irqEn = s.irqEn := rfl
@[simp] theorem setOutput_errInfo (b : List Byte) (p n : Nat) : (setOutput b p n s).errInfo = s.errInfo := rfl
@[simp] theorem setOutput_errArg (b : List Byte) (p n : Nat) : (setOutput b p n s).errArg = s.errArg := rfl
@[simp] theorem setOutput_ftLen (b : List Byte) (p n : Nat) : (setOutput b p n s).ftLen = s.ftLen := rfl
@[simp] theorem setOutput_srcLen (b : List Byte) (p n : Nat) : (setOutput b p n s).srcLen = s.srcLen := rfl
@[simp] theorem setOutput_padIn (b : List Byte) (p n : Nat) : (setOutput b p n s).padIn = s.padIn := rfl
@[simp] theorem setOutput_outLen (b : List Byte) (p n : Nat) : (setOutput b p n s).outLen = BitVec.ofNat 17 b.length := rfl
@[simp] theorem setOutput_padOut (b : List Byte) (p n : Nat) : (setOutput b p n s).padOut = BitVec.ofNat 3 p := rfl
@[simp] theorem setOutput_totalBits (b : List Byte) (p n : Nat) : (setOutput b p n s).totalBits = BitVec.ofNat 32 n := rfl
@[simp] theorem setOutput_nodeCount (b : List Byte) (p n : Nat) : (setOutput b p n s).nodeCount = s.nodeCount := rfl
@[simp] theorem setOutput_root (b : List Byte) (p n : Nat) : (setOutput b p n s).root = s.root := rfl
@[simp] theorem setOutput_ft (b : List Byte) (p n : Nat) : (setOutput b p n s).ft = s.ft := rfl
@[simp] theorem setOutput_ct (b : List Byte) (p n : Nat) : (setOutput b p n s).ct = s.ct := rfl
@[simp] theorem setOutput_arena (b : List Byte) (p n : Nat) : (setOutput b p n s).arena = s.arena := rfl
@[simp] theorem setOutput_mem (b : List Byte) (p n : Nat) : (setOutput b p n s).mem = Memory.writeBytes s.mem Config.dstBase b := rfl
@[simp] theorem setOutput_srcDraw (b : List Byte) (p n : Nat) : (setOutput b p n s).srcDraw = s.srcDraw := rfl
@[simp] theorem setOutput_dstDraw (b : List Byte) (p n : Nat) : (setOutput b p n s).dstDraw = s.dstDraw := rfl
@[simp] theorem setOutput_draws (b : List Byte) (p n : Nat) : (setOutput b p n s).draws = s.draws := rfl
@[simp] theorem setOutput_inputs (b : List Byte) (p n : Nat) : (setOutput b p n s).inputs = s.inputs := rfl
@[simp] theorem setOutput_resp (b : List Byte) (p n : Nat) : (setOutput b p n s).resp = s.resp := rfl

@[simp] theorem clearCodec_params : (clearCodec s).params = s.params := rfl
@[simp] theorem clearCodec_rstN : (clearCodec s).rstN = s.rstN := rfl
@[simp] theorem clearCodec_seq : (clearCodec s).seq = s.seq := rfl
@[simp] theorem clearCodec_curOp : (clearCodec s).curOp = s.curOp := rfl
@[simp] theorem clearCodec_done : (clearCodec s).done = s.done := rfl
@[simp] theorem clearCodec_err : (clearCodec s).err = s.err := rfl
@[simp] theorem clearCodec_overrun : (clearCodec s).overrun = s.overrun := rfl
@[simp] theorem clearCodec_treeValid : (clearCodec s).treeValid = false := rfl
@[simp] theorem clearCodec_irqEn : (clearCodec s).irqEn = s.irqEn := rfl
@[simp] theorem clearCodec_errInfo : (clearCodec s).errInfo = s.errInfo := rfl
@[simp] theorem clearCodec_errArg : (clearCodec s).errArg = s.errArg := rfl
@[simp] theorem clearCodec_ftLen : (clearCodec s).ftLen = 0 := rfl
@[simp] theorem clearCodec_srcLen : (clearCodec s).srcLen = 0 := rfl
@[simp] theorem clearCodec_padIn : (clearCodec s).padIn = 0 := rfl
@[simp] theorem clearCodec_outLen : (clearCodec s).outLen = 0 := rfl
@[simp] theorem clearCodec_padOut : (clearCodec s).padOut = 0 := rfl
@[simp] theorem clearCodec_totalBits : (clearCodec s).totalBits = 0 := rfl
@[simp] theorem clearCodec_nodeCount : (clearCodec s).nodeCount = 0 := rfl
@[simp] theorem clearCodec_root : (clearCodec s).root = 0 := rfl
@[simp] theorem clearCodec_ft : (clearCodec s).ft = [] := rfl
@[simp] theorem clearCodec_ct : (clearCodec s).ct = [] := rfl
@[simp] theorem clearCodec_arena : (clearCodec s).arena = [] := rfl
@[simp] theorem clearCodec_mem : (clearCodec s).mem = s.mem := rfl
@[simp] theorem clearCodec_srcDraw : (clearCodec s).srcDraw = s.srcDraw := rfl
@[simp] theorem clearCodec_dstDraw : (clearCodec s).dstDraw = s.dstDraw := rfl
@[simp] theorem clearCodec_draws : (clearCodec s).draws = s.draws := rfl
@[simp] theorem clearCodec_inputs : (clearCodec s).inputs = s.inputs := rfl
@[simp] theorem clearCodec_resp : (clearCodec s).resp = s.resp := rfl

@[simp] theorem endInit_params : (endInit s).params = s.params := rfl
@[simp] theorem endInit_rstN : (endInit s).rstN = s.rstN := rfl
@[simp] theorem endInit_seq : (endInit s).seq = .idle := rfl
@[simp] theorem endInit_curOp : (endInit s).curOp = s.curOp := rfl
@[simp] theorem endInit_done : (endInit s).done = s.done := rfl
@[simp] theorem endInit_err : (endInit s).err = s.err := rfl
@[simp] theorem endInit_overrun : (endInit s).overrun = s.overrun := rfl
@[simp] theorem endInit_treeValid : (endInit s).treeValid = s.treeValid := rfl
@[simp] theorem endInit_irqEn : (endInit s).irqEn = s.irqEn := rfl
@[simp] theorem endInit_errInfo : (endInit s).errInfo = s.errInfo := rfl
@[simp] theorem endInit_errArg : (endInit s).errArg = s.errArg := rfl
@[simp] theorem endInit_ftLen : (endInit s).ftLen = s.ftLen := rfl
@[simp] theorem endInit_srcLen : (endInit s).srcLen = s.srcLen := rfl
@[simp] theorem endInit_padIn : (endInit s).padIn = s.padIn := rfl
@[simp] theorem endInit_outLen : (endInit s).outLen = s.outLen := rfl
@[simp] theorem endInit_padOut : (endInit s).padOut = s.padOut := rfl
@[simp] theorem endInit_totalBits : (endInit s).totalBits = s.totalBits := rfl
@[simp] theorem endInit_nodeCount : (endInit s).nodeCount = s.nodeCount := rfl
@[simp] theorem endInit_root : (endInit s).root = s.root := rfl
@[simp] theorem endInit_ft : (endInit s).ft = s.ft := rfl
@[simp] theorem endInit_ct : (endInit s).ct = s.ct := rfl
@[simp] theorem endInit_arena : (endInit s).arena = s.arena := rfl
@[simp] theorem endInit_mem : (endInit s).mem = s.mem := rfl
@[simp] theorem endInit_srcDraw : (endInit s).srcDraw = s.srcDraw := rfl
@[simp] theorem endInit_dstDraw : (endInit s).dstDraw = s.dstDraw := rfl
@[simp] theorem endInit_draws : (endInit s).draws = s.draws := rfl
@[simp] theorem endInit_inputs : (endInit s).inputs = s.inputs := rfl
@[simp] theorem endInit_resp : (endInit s).resp = s.resp := rfl

@[simp] theorem writeStatus_params (v : Word) : (writeStatus v s).params = s.params := rfl
@[simp] theorem writeStatus_rstN (v : Word) : (writeStatus v s).rstN = s.rstN := rfl
@[simp] theorem writeStatus_seq (v : Word) : (writeStatus v s).seq = s.seq := rfl
@[simp] theorem writeStatus_curOp (v : Word) : (writeStatus v s).curOp = s.curOp := rfl
@[simp] theorem writeStatus_done (v : Word) : (writeStatus v s).done = (s.done && !v.getLsbD 1) := rfl
@[simp] theorem writeStatus_err (v : Word) : (writeStatus v s).err = (s.err && !v.getLsbD 2) := rfl
@[simp] theorem writeStatus_overrun (v : Word) : (writeStatus v s).overrun = (s.overrun && !v.getLsbD 3) := rfl
@[simp] theorem writeStatus_treeValid (v : Word) : (writeStatus v s).treeValid = s.treeValid := rfl
@[simp] theorem writeStatus_irqEn (v : Word) : (writeStatus v s).irqEn = s.irqEn := rfl
@[simp] theorem writeStatus_errInfo (v : Word) : (writeStatus v s).errInfo = s.errInfo := rfl
@[simp] theorem writeStatus_errArg (v : Word) : (writeStatus v s).errArg = s.errArg := rfl
@[simp] theorem writeStatus_ftLen (v : Word) : (writeStatus v s).ftLen = s.ftLen := rfl
@[simp] theorem writeStatus_srcLen (v : Word) : (writeStatus v s).srcLen = s.srcLen := rfl
@[simp] theorem writeStatus_padIn (v : Word) : (writeStatus v s).padIn = s.padIn := rfl
@[simp] theorem writeStatus_outLen (v : Word) : (writeStatus v s).outLen = s.outLen := rfl
@[simp] theorem writeStatus_padOut (v : Word) : (writeStatus v s).padOut = s.padOut := rfl
@[simp] theorem writeStatus_totalBits (v : Word) : (writeStatus v s).totalBits = s.totalBits := rfl
@[simp] theorem writeStatus_nodeCount (v : Word) : (writeStatus v s).nodeCount = s.nodeCount := rfl
@[simp] theorem writeStatus_root (v : Word) : (writeStatus v s).root = s.root := rfl
@[simp] theorem writeStatus_ft (v : Word) : (writeStatus v s).ft = s.ft := rfl
@[simp] theorem writeStatus_ct (v : Word) : (writeStatus v s).ct = s.ct := rfl
@[simp] theorem writeStatus_arena (v : Word) : (writeStatus v s).arena = s.arena := rfl
@[simp] theorem writeStatus_mem (v : Word) : (writeStatus v s).mem = s.mem := rfl
@[simp] theorem writeStatus_srcDraw (v : Word) : (writeStatus v s).srcDraw = s.srcDraw := rfl
@[simp] theorem writeStatus_dstDraw (v : Word) : (writeStatus v s).dstDraw = s.dstDraw := rfl
@[simp] theorem writeStatus_draws (v : Word) : (writeStatus v s).draws = s.draws := rfl
@[simp] theorem writeStatus_inputs (v : Word) : (writeStatus v s).inputs = s.inputs := rfl
@[simp] theorem writeStatus_resp (v : Word) : (writeStatus v s).resp = s.resp := rfl

@[simp] theorem writeCtrl_params (v : Word) : (writeCtrl v s).params = s.params := rfl
@[simp] theorem writeCtrl_rstN (v : Word) : (writeCtrl v s).rstN = s.rstN := rfl
@[simp] theorem writeCtrl_seq (v : Word) : (writeCtrl v s).seq = s.seq := rfl
@[simp] theorem writeCtrl_curOp (v : Word) : (writeCtrl v s).curOp = s.curOp := rfl
@[simp] theorem writeCtrl_done (v : Word) : (writeCtrl v s).done = s.done := rfl
@[simp] theorem writeCtrl_err (v : Word) : (writeCtrl v s).err = s.err := rfl
@[simp] theorem writeCtrl_overrun (v : Word) : (writeCtrl v s).overrun = s.overrun := rfl
@[simp] theorem writeCtrl_treeValid (v : Word) : (writeCtrl v s).treeValid = s.treeValid := rfl
@[simp] theorem writeCtrl_irqEn (v : Word) : (writeCtrl v s).irqEn = v.getLsbD 0 := rfl
@[simp] theorem writeCtrl_errInfo (v : Word) : (writeCtrl v s).errInfo = s.errInfo := rfl
@[simp] theorem writeCtrl_errArg (v : Word) : (writeCtrl v s).errArg = s.errArg := rfl
@[simp] theorem writeCtrl_ftLen (v : Word) : (writeCtrl v s).ftLen = s.ftLen := rfl
@[simp] theorem writeCtrl_srcLen (v : Word) : (writeCtrl v s).srcLen = s.srcLen := rfl
@[simp] theorem writeCtrl_padIn (v : Word) : (writeCtrl v s).padIn = s.padIn := rfl
@[simp] theorem writeCtrl_outLen (v : Word) : (writeCtrl v s).outLen = s.outLen := rfl
@[simp] theorem writeCtrl_padOut (v : Word) : (writeCtrl v s).padOut = s.padOut := rfl
@[simp] theorem writeCtrl_totalBits (v : Word) : (writeCtrl v s).totalBits = s.totalBits := rfl
@[simp] theorem writeCtrl_nodeCount (v : Word) : (writeCtrl v s).nodeCount = s.nodeCount := rfl
@[simp] theorem writeCtrl_root (v : Word) : (writeCtrl v s).root = s.root := rfl
@[simp] theorem writeCtrl_ft (v : Word) : (writeCtrl v s).ft = s.ft := rfl
@[simp] theorem writeCtrl_ct (v : Word) : (writeCtrl v s).ct = s.ct := rfl
@[simp] theorem writeCtrl_arena (v : Word) : (writeCtrl v s).arena = s.arena := rfl
@[simp] theorem writeCtrl_mem (v : Word) : (writeCtrl v s).mem = s.mem := rfl
@[simp] theorem writeCtrl_srcDraw (v : Word) : (writeCtrl v s).srcDraw = s.srcDraw := rfl
@[simp] theorem writeCtrl_dstDraw (v : Word) : (writeCtrl v s).dstDraw = s.dstDraw := rfl
@[simp] theorem writeCtrl_draws (v : Word) : (writeCtrl v s).draws = s.draws := rfl
@[simp] theorem writeCtrl_inputs (v : Word) : (writeCtrl v s).inputs = s.inputs := rfl
@[simp] theorem writeCtrl_resp (v : Word) : (writeCtrl v s).resp = s.resp := rfl

@[simp] theorem afterEvent_params : (afterEvent s).params = s.params := rfl
@[simp] theorem afterEvent_rstN : (afterEvent s).rstN = s.rstN := rfl
@[simp] theorem afterEvent_seq : (afterEvent s).seq = s.seq := rfl
@[simp] theorem afterEvent_curOp : (afterEvent s).curOp = s.curOp := rfl
@[simp] theorem afterEvent_done : (afterEvent s).done = s.done := rfl
@[simp] theorem afterEvent_err : (afterEvent s).err = s.err := rfl
@[simp] theorem afterEvent_overrun : (afterEvent s).overrun = s.overrun := rfl
@[simp] theorem afterEvent_treeValid : (afterEvent s).treeValid = s.treeValid := rfl
@[simp] theorem afterEvent_irqEn : (afterEvent s).irqEn = s.irqEn := rfl
@[simp] theorem afterEvent_errInfo : (afterEvent s).errInfo = s.errInfo := rfl
@[simp] theorem afterEvent_errArg : (afterEvent s).errArg = s.errArg := rfl
@[simp] theorem afterEvent_ftLen : (afterEvent s).ftLen = s.ftLen := rfl
@[simp] theorem afterEvent_srcLen : (afterEvent s).srcLen = s.srcLen := rfl
@[simp] theorem afterEvent_padIn : (afterEvent s).padIn = s.padIn := rfl
@[simp] theorem afterEvent_outLen : (afterEvent s).outLen = s.outLen := rfl
@[simp] theorem afterEvent_padOut : (afterEvent s).padOut = s.padOut := rfl
@[simp] theorem afterEvent_totalBits : (afterEvent s).totalBits = s.totalBits := rfl
@[simp] theorem afterEvent_nodeCount : (afterEvent s).nodeCount = s.nodeCount := rfl
@[simp] theorem afterEvent_root : (afterEvent s).root = s.root := rfl
@[simp] theorem afterEvent_ft : (afterEvent s).ft = s.ft := rfl
@[simp] theorem afterEvent_ct : (afterEvent s).ct = s.ct := rfl
@[simp] theorem afterEvent_arena : (afterEvent s).arena = s.arena := rfl
@[simp] theorem afterEvent_mem : (afterEvent s).mem = s.mem := rfl
@[simp] theorem afterEvent_srcDraw : (afterEvent s).srcDraw = s.srcDraw := rfl
@[simp] theorem afterEvent_dstDraw : (afterEvent s).dstDraw = s.dstDraw := rfl
@[simp] theorem afterEvent_draws : (afterEvent s).draws = s.draws := rfl
@[simp] theorem afterEvent_inputs : (afterEvent s).inputs = s.inputs.tail := rfl
@[simp] theorem afterEvent_resp : (afterEvent s).resp = s.resp := rfl

end Sys2Proof.Machine
end

