-- ==== Sys2Proof/Laws/Commands.lean ====
section
/-! SUPPORT. For each command and each shared operation, one lemma that says once everything it can do. -/

namespace Sys2Proof.Machine

/-! ## The commands -/

theorem exec_nop (s : State) : exec .nop s = .next (completeOk s) := rfl

theorem exec_clear (s : State) : exec .clear s = .next (completeOk (clearCodec s)) := rfl

/-- BUILD_TREE answers a next state: the error outputs with the first failing check, or the tree. -/
theorem exec_buildTree (s : State) :
    (∃ r, checkTable s = .error r ∧ exec .buildTree s = .next (completeErr r (dropTree s))) ∨
      (checkTable s = .ok () ∧
        exec .buildTree s = .next (completeOk
          (setTree (buildArena (ftEntries s.ft s.ftLen.toNat)).2
            (BitVec.ofNat 9 (buildArena (ftEntries s.ft s.ftLen.toNat)).1) s))) := by
  cases h : checkTable s with
  | error r => exact .inl ⟨r, rfl, by simp [exec, execBuildTree, h]⟩
  | ok u => exact .inr ⟨rfl, by simp [exec, execBuildTree, h]⟩

/-- ASSIGN_CODES reports a missing tree, writes the table, reports a long code, or stops on an arena that is no tree. -/
theorem exec_assignCodes (s : State) :
    (s.treeValid = false ∧ exec .assignCodes s = .next (completeErr ⟨.noTree, 0⟩ s)) ∨
      (s.treeValid = true ∧ ∃ ct, assignedTable s.arena s.root = .ok ct ∧
        exec .assignCodes s = .next (completeOk (setCodeTable ct s))) ∨
      (s.treeValid = true ∧ ∃ c, assignedTable s.arena s.root = .error (.codeTooLong c) ∧
        exec .assignCodes s = .next (completeErr ⟨.codeTooLong, c.setWidth 32⟩ (setCodeTable [] s))) ∨
      (s.treeValid = true ∧ assignedTable s.arena s.root = .error .noTree ∧
        exec .assignCodes s = .fault .arenaIsNoTree) := by
  cases hv : s.treeValid with
  | false => exact .inl ⟨rfl, by simp [exec, execAssignCodes, hv]⟩
  | true =>
    refine .inr ?_
    cases h : assignedTable s.arena s.root with
    | ok ct => exact .inl ⟨rfl, ct, rfl, by simp [exec, execAssignCodes, hv, h]⟩
    | error e =>
      cases e with
      | codeTooLong c => exact .inr (.inl ⟨rfl, c, rfl, by simp [exec, execAssignCodes, hv, h]⟩)
      | noTree => exact .inr (.inr ⟨rfl, rfl, by simp [exec, execAssignCodes, hv, h]⟩)

/-- ENCODE answers a next state: the error outputs with the first failing check, or the packed bits. -/
theorem exec_encode (s : State) :
    (∃ r, encodedBits s = .error r ∧ exec .encode s = .next (completeErr r (dropOutput s))) ∨
      (∃ b, encodedBits s = .ok b ∧
        exec .encode s = .next (completeOk (setOutput (packBits b) (padLength b.length) b.length s))) := by
  cases h : encodedBits s with
  | error r => exact .inl ⟨r, rfl, by simp [exec, execEncode, h]⟩
  | ok b => exact .inr ⟨b, rfl, by simp [exec, execEncode, h]⟩

/-- DECODE answers a next state: the error outputs with the first failing check, or the symbols. -/
theorem exec_decode (s : State) :
    (∃ r, decodedBytes s = .error r ∧ exec .decode s = .next (completeErr r (dropOutput s))) ∨
      (∃ b, decodedBytes s = .ok b ∧ exec .decode s = .next (completeOk (setOutput b 0 (nbits s) s))) := by
  cases h : decodedBytes s with
  | error r => exact .inl ⟨r, rfl, by simp [exec, execDecode, h]⟩
  | ok b => exact .inr ⟨b, rfl, by simp [exec, execDecode, h]⟩

/-- What a command has written before it completes keeps the registers of the completion, the pins and the events. -/
structure Untouched (s u : State) : Prop where
  params : u.params = s.params
  rstN : u.rstN = s.rstN
  seq : u.seq = s.seq
  curOp : u.curOp = s.curOp
  done : u.done = s.done
  err : u.err = s.err
  overrun : u.overrun = s.overrun
  irqEn : u.irqEn = s.irqEn
  errInfo : u.errInfo = s.errInfo
  errArg : u.errArg = s.errArg
  inputs : u.inputs = s.inputs
  resp : u.resp = s.resp

/-- Every command that answers a next state answers a completion: what it wrote, then `complete()` or `raise`. -/
theorem exec_completes (i : Instr) (s t : State) (h : exec i s = .next t) :
    ∃ u, Untouched s u ∧ (t = completeOk u ∨ ∃ r, t = completeErr r u) := by
  cases i with
  | nop =>
    rw [exec_nop] at h
    cases h
    exact ⟨s, by constructor <;> rfl, .inl rfl⟩
  | clear =>
    rw [exec_clear] at h
    cases h
    exact ⟨clearCodec s, by constructor <;> rfl, .inl rfl⟩
  | buildTree =>
    rcases exec_buildTree s with ⟨r, -, e⟩ | ⟨-, e⟩ <;> rw [e] at h <;> cases h
    · exact ⟨dropTree s, by constructor <;> rfl, .inr ⟨r, rfl⟩⟩
    · exact ⟨setTree _ _ s, by constructor <;> rfl, .inl rfl⟩
  | assignCodes =>
    rcases exec_assignCodes s with ⟨-, e⟩ | ⟨-, ct, -, e⟩ | ⟨-, c, -, e⟩ | ⟨-, -, e⟩ <;> rw [e] at h <;> cases h
    · exact ⟨s, by constructor <;> rfl, .inr ⟨_, rfl⟩⟩
    · exact ⟨setCodeTable ct s, by constructor <;> rfl, .inl rfl⟩
    · exact ⟨setCodeTable [] s, by constructor <;> rfl, .inr ⟨_, rfl⟩⟩
  | encode =>
    rcases exec_encode s with ⟨r, -, e⟩ | ⟨b, -, e⟩ <;> rw [e] at h <;> cases h
    · exact ⟨dropOutput s, by constructor <;> rfl, .inr ⟨r, rfl⟩⟩
    · exact ⟨setOutput _ _ _ s, by constructor <;> rfl, .inl rfl⟩
  | decode =>
    rcases exec_decode s with ⟨r, -, e⟩ | ⟨b, -, e⟩ <;> rw [e] at h <;> cases h
    · exact ⟨dropOutput s, by constructor <;> rfl, .inr ⟨r, rfl⟩⟩
    · exact ⟨setOutput _ _ _ s, by constructor <;> rfl, .inl rfl⟩

/-! ## The shared operations of BUILD_TREE -/

/-- `popLeast` takes one key out of the live ones and leaves the others. -/
theorem popLeast_perm (k : Key) (ks : List Key) :
    List.Perm ((popLeast k ks).1 :: (popLeast k ks).2) (k :: ks) := by
  induction ks generalizing k with
  | nil => simp [popLeast]
  | cons x xs ih =>
    unfold popLeast
    split
    · exact (List.Perm.swap _ _ _).trans ((ih x).cons k)
    · exact (List.Perm.swap _ _ _).trans (((ih k).cons x).trans (List.Perm.swap _ _ _))

/-- The number of keys left after a pop. -/
theorem popLeast_length (k : Key) (ks : List Key) : (popLeast k ks).2.length = ks.length := by
  simpa using (popLeast_perm k ks).length_eq

/-- The order of keys, over the numbers (40_tree_builder.md R101). -/
theorem less_iff (a b : Key) :
    a.less b = true ↔ a.freq.toNat < b.freq.toNat ∨ (a.freq.toNat = b.freq.toNat ∧ a.index < b.index) := by
  simp [Key.less, BitVec.toNat_inj]

/-- `popLeast` takes a key that none of the others is less than. -/
theorem popLeast_least (k : Key) (ks : List Key) : ∀ x ∈ (popLeast k ks).2, x.less (popLeast k ks).1 = false := by
  induction ks generalizing k with
  | nil => simp [popLeast]
  | cons y ys ih =>
    have key (c d : Key) (hcd : d.less c = false) (hd : ∀ x ∈ (popLeast c ys).2, x.less (popLeast c ys).1 = false) :
        ∀ x ∈ d :: (popLeast c ys).2, x.less (popLeast c ys).1 = false := by
      intro x hx
      rcases List.mem_cons.1 hx with rfl | hx
      · have hm : c = (popLeast c ys).1 ∨ c ∈ (popLeast c ys).2 := by
          have := (popLeast_perm c ys).mem_iff.2 (List.mem_cons_self (a := c))
          simpa using this
        rcases hm with e | hm
        · rw [← e]
          exact hcd
        · have h1 := hd c hm
          rw [← Bool.not_eq_true, less_iff] at h1 hcd ⊢
          omega
      · exact hd x hx
    unfold popLeast
    split
    · next hlt =>
      refine key y k ?_ (ih y)
      rw [less_iff] at hlt
      rw [← Bool.not_eq_true, less_iff]
      omega
    · next hlt => exact key k y (by simpa using hlt) (ih k)

/-! ## Bit strings -/

@[simp] theorem codeBits_length (e : CtEntry) : (codeBits e).length = e.len.toNat := by simp [codeBits]

@[simp] theorem packBits_length (b : List Bool) : (packBits b).length = ceilDiv8 b.length := by simp [packBits]

@[simp] theorem srcBytes_length (s : State) (n : Nat) : (srcBytes s n).length = n := by simp [srcBytes]

@[simp] theorem srcBits_length (s : State) : (srcBits s).length = nbits s := by simp [srcBits]

@[simp] theorem ftEntries_length (ft : List (Nat × FtEntry)) (k : Nat) : (ftEntries ft k).length = k := by
  simp [ftEntries]

/-- The bits of the number that eight bits make, most significant first. -/
theorem ofBits_bit (c0 c1 c2 c3 c4 c5 c6 c7 : Bool) (q : Fin 8) :
    (BitVec.ofNat 8 (bitNat c0 * 128 + (bitNat c1 * 64 + (bitNat c2 * 32 + (bitNat c3 * 16 + (bitNat c4 * 8 +
      (bitNat c5 * 4 + (bitNat c6 * 2 + bitNat c7)))))))).getLsbD (7 - q.val) =
      [c0, c1, c2, c3, c4, c5, c6, c7].getD q.val false := by
  revert c0 c1 c2 c3 c4 c5 c6 c7 q
  decide +kernel

/-- Bit 7−q of byte m of the packed format is bit 8m+q of the string (20_memory.md R69). -/
theorem packedByte_bit (b : List Bool) (m q : Nat) (h : q < 8) :
    (packedByte b m).getLsbD (7 - q) = packedBit b (8 * m + q) := by
  have expand : packedByte b m = BitVec.ofNat 8 (bitNat (packedBit b (8 * m + 0)) * 128 +
      (bitNat (packedBit b (8 * m + 1)) * 64 + (bitNat (packedBit b (8 * m + 2)) * 32 +
      (bitNat (packedBit b (8 * m + 3)) * 16 + (bitNat (packedBit b (8 * m + 4)) * 8 +
      (bitNat (packedBit b (8 * m + 5)) * 4 + (bitNat (packedBit b (8 * m + 6)) * 2 +
      bitNat (packedBit b (8 * m + 7))))))))) := by
    rw [packedByte]
    congr 1
    simp [List.range_succ]
  rw [expand, ofBits_bit _ _ _ _ _ _ _ _ ⟨q, h⟩]
  have hq : q = 0 ∨ q = 1 ∨ q = 2 ∨ q = 3 ∨ q = 4 ∨ q = 5 ∨ q = 6 ∨ q = 7 := by omega
  rcases hq with rfl | rfl | rfl | rfl | rfl | rfl | rfl | rfl <;> rfl

/-! ## The tables -/

@[simp] theorem ftAt_ftSet (ft : List (Nat × FtEntry)) (i : Nat) (e : FtEntry) (j : Nat) :
    ftAt (ftSet ft i e) j = if j = i then e else ftAt ft j :=
  Sparse.getD_lookup_storeOr _ ft i e j

@[simp] theorem ctAt_ctSet (ct : List (Nat × CtEntry)) (c : Byte) (e : CtEntry) (d : Byte) :
    ctAt (ctSet ct c e) d = if d = c then e else ctAt ct d := by
  simp only [ctAt, ctSet, Sparse.getD_lookup_storeOr, BitVec.toNat_inj]

theorem canonicalTable_ctSet (ct : List (Nat × CtEntry)) (c : Byte) (e : CtEntry) (h : CanonicalTable ct) :
    CanonicalTable (ctSet ct c e) :=
  Sparse.wfOr_storeOr _ _ ct c.toNat e h c.isLt

/-- In a canonical CodeTable, the listed entries are the entries that differ from the absent one. -/
theorem ctAt_of_mem (ct : List (Nat × CtEntry)) (h : CanonicalTable ct) (k : Nat) (e : CtEntry) (hm : (k, e) ∈ ct) :
    ctAt ct (BitVec.ofNat 8 k) = e ∧ k < 256 := by
  obtain ⟨hs, hb⟩ := (Sparse.wfOr_iff _ _ _).1 h
  have hk : k < 256 := (hb _ hm).1
  refine ⟨?_, hk⟩
  have : (BitVec.ofNat 8 k).toNat = k := by
    rw [BitVec.toNat_ofNat]
    omega
  rw [ctAt, this, Sparse.lookup_of_mem ct hs k e hm]
  rfl

end Sys2Proof.Machine
end

