-- ==== Sys2Proof/Laws/Step.lean ====
section
/-! SUPPORT. What one step can do, said once: the event it takes, the sequencer's move, a read, a write. -/

namespace Sys2Proof.Machine

/-! ## Words and bytes -/

/-- A word is what its four bytes make. -/
@[simp] theorem wordOfBytes_byteOfWord (w : Word) :
    wordOfBytes (byteOfWord w 0) (byteOfWord w 1) (byteOfWord w 2) (byteOfWord w 3) = w := by
  apply BitVec.eq_of_toNat_eq
  have := w.isLt
  simp only [wordOfBytes, byteOfWord, BitVec.toNat_ofNat, BitVec.extractLsb'_toNat, Nat.shiftRight_eq_div_pow]
  omega

/-- Decoding the bytes of a word is decoding the word. -/
theorem decodeBytes_wordBytes (w : Word) (rest : List Byte) :
    decodeBytes (wordBytes w ++ rest) = (decodeWord w).map fun i => (i, rest) := by
  simp only [wordBytes, List.cons_append, List.nil_append, decodeBytes, wordOfBytes_byteOfWord]
  cases decodeWord w <;> rfl

/-- Running an accepted word: its command, or ILLEGAL_CMD (30_encoding.md R81). -/
theorem runCommand_eq (w : Word) (s : State) :
    runCommand w s =
      match decodeWord w with
      | .ok i => exec i s
      | .error _ => .next (completeErr ⟨.illegalCmd, w⟩ s) := by
  have h := decodeBytes_wordBytes w []
  rw [List.append_nil] at h
  rw [runCommand, h]
  cases decodeWord w <;> rfl

/-! ## The step -/

/-- A step that answers takes the next event: the sequencer's move, a host transaction with rst_n high, or an edge of rst_n. -/
theorem step_cases (s t : State) (h : step s = .next t) :
    (SequencerNext s ∧ sequencerMove (afterEvent s) = .next t) ∨
      (∃ addr n rest, s.inputs = .read addr n :: rest ∧ s.rstN = true ∧ t = hostRead addr n (afterEvent s)) ∨
      (∃ addr n v rest, s.inputs = .write addr n v :: rest ∧ s.rstN = true ∧ t = hostWrite addr n v (afterEvent s)) ∨
      (∃ rest, s.inputs = .resetLow :: rest ∧ t = resetLow (afterEvent s)) ∨
      (∃ rest, s.inputs = .resetHigh :: rest ∧ t = resetHigh (afterEvent s)) := by
  have after {e : Input} {rest : List Input} (hi : s.inputs = e :: rest) : { s with inputs := rest } = afterEvent s := by
    simp [afterEvent, hi]
  unfold step at h
  split at h
  · next hi =>
    have : afterEvent s = s := by
      cases s
      simp_all [afterEvent]
    exact .inl ⟨.inl hi, by rw [this]; exact h⟩
  · next rest hi => exact .inl ⟨.inr ⟨rest, hi⟩, after hi ▸ h⟩
  · next addr n rest hi =>
    unfold hostTransaction at h
    split at h
    · next hr =>
      cases h
      exact .inr (.inl ⟨addr, n, rest, hi, hr, by rw [after hi]⟩)
    · cases h
  · next addr n v rest hi =>
    unfold hostTransaction at h
    split at h
    · next hr =>
      cases h
      exact .inr (.inr (.inl ⟨addr, n, v, rest, hi, hr, by rw [after hi]⟩))
    · cases h
  · next rest hi =>
    cases h
    exact .inr (.inr (.inr (.inl ⟨rest, hi, by rw [after hi]⟩)))
  · next rest hi =>
    cases h
    exact .inr (.inr (.inr (.inr ⟨rest, hi, by rw [after hi]⟩)))

/-- The step that is the sequencer's. -/
theorem step_sequencer (s : State) (h : SequencerNext s) : step s = sequencerMove (afterEvent s) := by
  rcases h with h | ⟨rest, h⟩
  · have : afterEvent s = s := by
      cases s
      simp_all [afterEvent]
    rw [this]
    simp [step, h]
  · simp [step, h, afterEvent]

/-- The sequencer stands still, ends INIT, runs a command, or reports an illegal word. -/
theorem sequencerMove_cases (s t : State) (h : sequencerMove s = .next t) :
    (s.rstN = false ∧ t = s) ∨ (s.rstN = true ∧ s.seq = .idle ∧ t = s) ∨
      (s.rstN = true ∧ s.seq = .init ∧ t = endInit s) ∨
      (s.rstN = true ∧ ∃ w i, s.seq = .busy w ∧ decodeWord w = .ok i ∧ exec i s = .next t) ∨
      (s.rstN = true ∧ ∃ w r, s.seq = .busy w ∧ decodeWord w = .error r ∧ t = completeErr ⟨.illegalCmd, w⟩ s) := by
  unfold sequencerMove at h
  cases hr : s.rstN with
  | false => exact .inl ⟨rfl, by simpa [hr, eq_comm] using h⟩
  | true =>
    rw [hr, if_pos rfl] at h
    cases hs : s.seq with
    | init => exact .inr (.inr (.inl ⟨rfl, rfl, by simpa [hs, eq_comm] using h⟩))
    | idle => exact .inr (.inl ⟨rfl, rfl, by simpa [hs, eq_comm] using h⟩)
    | busy w =>
      simp only [hs, runCommand_eq] at h
      cases hd : decodeWord w with
      | ok i => exact .inr (.inr (.inr (.inl ⟨rfl, w, i, rfl, hd, by simpa [hd] using h⟩)))
      | error r => exact .inr (.inr (.inr (.inr ⟨rfl, w, r, rfl, hd, by simpa [hd, eq_comm] using h⟩)))

/-- A read answers, and changes nothing but the answer and, while BUSY = 1, the draw counter. -/
theorem hostRead_cases (addr : BitVec 18) (n : Width) (s : State) :
    (target s.params addr.toNat n = none ∧ hostRead addr n s = { s with resp := .busError }) ∨
      (∃ g, target s.params addr.toNat n = some g ∧ s.busy = true ∧
        hostRead addr n s = { s with resp := .data (readBusy s n g), draws := s.draws + 1 }) ∨
      (∃ g, target s.params addr.toNat n = some g ∧ s.busy = false ∧
        hostRead addr n s = { s with resp := .data (readStored s n g) }) := by
  unfold hostRead
  cases target s.params addr.toNat n with
  | none => exact .inl ⟨rfl, rfl⟩
  | some g =>
    cases hb : s.busy with
    | true => exact .inr (.inl ⟨g, rfl, rfl, by simp⟩)
    | false => exact .inr (.inr ⟨g, rfl, rfl, by simp⟩)

/-- A write is a bus error, is ignored with OVERRUN, or is done. -/
theorem hostWrite_cases (addr : BitVec 18) (n : Width) (v : Word) (s : State) :
    (target s.params addr.toNat n = none ∧ hostWrite addr n v s = { s with resp := .busError }) ∨
      (∃ g, target s.params addr.toNat n = some g ∧ s.busy = true ∧ alwaysWritable g = false ∧
        hostWrite addr n v s = { s with overrun := true, resp := .ok }) ∨
      (∃ g, target s.params addr.toNat n = some g ∧ (s.busy = false ∨ alwaysWritable g = true) ∧
        hostWrite addr n v s = { writeTarget n v s g with resp := .ok }) := by
  unfold hostWrite
  cases target s.params addr.toNat n with
  | none => exact .inl ⟨rfl, rfl⟩
  | some g =>
    cases hb : s.busy <;> cases ha : alwaysWritable g
    · exact .inr (.inr ⟨g, rfl, .inl rfl, by simp⟩)
    · exact .inr (.inr ⟨g, rfl, .inl rfl, by simp⟩)
    · exact .inr (.inl ⟨g, rfl, rfl, ha, by simp [ha]⟩)
    · exact .inr (.inr ⟨g, rfl, .inr ha, by simp [ha]⟩)

/-! ## The invariant's memory part -/

/-- The bytes of a write. -/
@[simp] theorem storedBytes_length (v : Word) (n : Width) : (storedBytes v n).length = n.bytes := by simp [storedBytes]

/-- What `target` gives for a buffer is a range inside it. -/
theorem target_src (p : Params) (a : Nat) (n : Width) (x : Nat) (h : target p a n = some (.src x)) :
    x = a ∧ Config.srcBase ≤ a ∧ a + n.bytes ≤ Config.srcBase + p.bufBytes := by
  unfold target at h
  split at h
  · cases h
  · split at h
    · next h1 =>
      cases h
      exact ⟨rfl, h1⟩
    · split at h
      · cases h
      · cases n
        · cases h
        · cases h
        · simp only [wordTarget] at h
          repeat' split at h
          all_goals cases h

end Sys2Proof.Machine
end

