-- ==== Sys2Proof/Laws/PerInstr.lean ====
section
/-! SUPPORT. Statements made of every instruction, one lemma per constructor of Instr (LAWS.json). -/

namespace Sys2Proof.Laws.RoundTrip

/-- The command's word is legal and decodes to the command, alone and at the head of any bytes. -/
def Statement (i : Instr) : Prop :=
  legalCommand (encode i) = true ∧ decodeWord (encode i) = .ok i ∧
    ∀ rest, decodeBytes (wordBytes (encode i) ++ rest) = .ok (i, rest)

theorem of_word (i : Instr) (h : legalCommand (encode i) = true) (hd : decodeWord (encode i) = .ok i) : Statement i :=
  ⟨h, hd, fun rest => by rw [Machine.decodeBytes_wordBytes, hd]; rfl⟩

theorem nop : Statement .nop := of_word _ (by decide) (by decide)
theorem clear : Statement .clear := of_word _ (by decide) (by decide)
theorem buildTree : Statement .buildTree := of_word _ (by decide) (by decide)
theorem assignCodes : Statement .assignCodes := of_word _ (by decide) (by decide)
theorem encode : Statement .encode := of_word _ (by decide) (by decide)
theorem decode : Statement .decode := of_word _ (by decide) (by decide)

end Sys2Proof.Laws.RoundTrip
end

