-- ==== Sys2Proof/Laws/Tree.lean ====
section
/-! SUPPORT. Paths in the arena: each node has at most one leaf at the end of a path, and a function that lists the paths. -/

namespace Sys2Proof.Machine

/-- The paths of fewer than `fuel` edges from node n, with the symbols of their leaves, in preorder. -/
def paths (arena : List Node) : Nat → Nat → List (List Bool × Byte)
  | 0, _ => []
  | fuel + 1, n =>
    match nodeAt arena n with
    | none => []
    | some (.leaf symbol _) => [([], symbol)]
    | some (.internal _ l r) =>
      (paths arena fuel l.toNat).map (fun x => (false :: x.1, x.2)) ++
        (paths arena fuel r.toNat).map fun x => (true :: x.1, x.2)

theorem mem_paths (arena : List Node) (fuel n : Nat) (p : List Bool) (c : Byte) (h : PathTo arena n p c)
    (hf : p.length < fuel) : (p, c) ∈ paths arena fuel n := by
  induction h generalizing fuel with
  | leaf h =>
    cases fuel with
    | zero => simp at hf
    | succ fuel => simp [paths, h]
  | left h _ ih =>
    cases fuel with
    | zero => simp at hf
    | succ fuel =>
      have := ih fuel (by simpa using hf)
      simp [paths, h, this]
  | right h _ ih =>
    cases fuel with
    | zero => simp at hf
    | succ fuel =>
      have := ih fuel (by simpa using hf)
      simp [paths, h, this]

theorem paths_sound (arena : List Node) (fuel n : Nat) (p : List Bool) (c : Byte) (h : (p, c) ∈ paths arena fuel n) :
    PathTo arena n p c := by
  induction fuel generalizing n p with
  | zero => simp [paths] at h
  | succ fuel ih =>
    unfold paths at h
    split at h
    · simp at h
    · next symbol f hn =>
      simp only [List.mem_singleton, Prod.mk.injEq] at h
      obtain ⟨rfl, rfl⟩ := h
      exact .leaf hn
    · next f l r hn =>
      rw [List.mem_append, List.mem_map, List.mem_map] at h
      rcases h with ⟨x, hx, e⟩ | ⟨x, hx, e⟩ <;> obtain ⟨rfl, rfl⟩ := Prod.mk.inj e
      · exact .left hn (ih _ _ hx)
      · exact .right hn (ih _ _ hx)

/-- Where children come before their parents, a path from node n has at most n edges. -/
theorem pathTo_length (arena : List Node)
    (hb : ∀ n f l r, nodeAt arena n = some (.internal f l r) → l.toNat < n ∧ r.toNat < n) (n : Nat) (p : List Bool)
    (c : Byte) (h : PathTo arena n p c) : p.length ≤ n := by
  induction h with
  | leaf h => simp
  | left h _ ih =>
    have := (hb _ _ _ _ h).1
    simp only [List.length_cons]
    omega
  | right h _ ih =>
    have := (hb _ _ _ _ h).2
    simp only [List.length_cons]
    omega

/-- The edge labels from a node lead to one leaf only. -/
theorem pathTo_symbol (arena : List Node) (n : Nat) (p : List Bool) (c d : Byte) (h : PathTo arena n p c)
    (h' : PathTo arena n p d) : c = d := by
  induction h with
  | leaf h =>
    cases h' with
    | leaf h2 =>
      rw [h] at h2
      cases h2
      rfl
  | left h _ ih =>
    cases h' with
    | left h2 below =>
      rw [h] at h2
      cases h2
      exact ih below
  | right h _ ih =>
    cases h' with
    | right h2 below =>
      rw [h] at h2
      cases h2
      exact ih below

end Sys2Proof.Machine
end

