-- ==== Sys2Proof/Tests/Slice0.lean ====
section
/-! SUPPORT. The model's own tests, each against a worked example or vector of spec/, and a witness for the hypotheses of each
statement of Certificates/Slice0/Obligations.lean. -/

namespace Sys2Proof.Tests

open Sys2Proof Sys2Proof.Machine

/-! ## Helpers -/

/-- A check of the next state; false on a fault or a refusal. -/
def nextIs (o : Host.Outcome State Fault Refusal) (f : State → Bool) : Bool :=
  match o with
  | .next s => f s
  | .fault _ => false
  | .refused _ => false

/-- The next state, or the reset state where there is none. -/
def nextOf (o : Host.Outcome State Fault Refusal) : State :=
  match o with
  | .next s => s
  | .fault _ => State.reset
  | .refused _ => State.reset

theorem next_of_nextIs {o : Host.Outcome State Fault Refusal} (h : nextIs o (fun _ => true) = true) :
    o = .next (nextOf o) := by
  cases o with
  | next s => rfl
  | fault r => cases h
  | refused r => cases h

/-- IDLE after INIT. -/
def idle : State := endInit State.reset

/-- A command accepted in a state. -/
def accepted (i : Instr) (s : State) : State := acceptCommand (encode i) s

/-- FT from a list of (symbol, count). -/
def loadFt (es : List (Byte × Word)) (s : State) : State :=
  { s with
    ftLen := BitVec.ofNat 9 es.length
    ft := (List.range es.length).map fun i => (i, ⟨(es.getD i (0, 0)).1, (es.getD i (0, 0)).2⟩) }

/-- SRC and SRC_LEN from a list of bytes. -/
def loadSrc (bytes : List Byte) (s : State) : State :=
  { s with srcLen := BitVec.ofNat 17 bytes.length, mem := Memory.writeBytes s.mem Config.srcBase bytes }

/-- The table CT₁ of 95_test_vectors.md: A "1", B "01", C "00". -/
def ct1 : List (Nat × CtEntry) := [(0x41, ⟨true, 1, 1⟩), (0x42, ⟨true, 2, 1⟩), (0x43, ⟨true, 2, 0⟩)]

/-- The table X "0", Y "1". -/
def ct2 : List (Nat × CtEntry) := [(0x58, ⟨true, 1, 0⟩), (0x59, ⟨true, 1, 1⟩)]

/-- DST[0..n−1]. -/
def dst (s : State) (n : Nat) : List Byte := (List.range n).map fun j => readByte s (Config.dstBase + j)

/-! ## Well-formedness: one ill-formed term for each check -/

theorem test_mbz_refused : legalCommand 0x80000004 = false := by decide
theorem test_reserved_opcode_refused : legalCommand 0x00000006 = false := by decide
theorem test_zero_buffer_refused : Params.wellFormed ⟨0⟩ = false := by decide
theorem test_large_buffer_refused : Params.wellFormed ⟨65537⟩ = false := by decide
theorem test_unsorted_memory_refused : Memory.wf [(0x10001, 1), (0x10000, 2)] = false := by decide
theorem test_memory_hole_refused : Memory.inBuffers ⟨1⟩ [(0x10001, 1)] = false := by decide
theorem test_default_entry_refused : Sparse.wfOr noCode 256 [(0x41, noCode)] = false := by decide

/-! ## Decoding: the words of 30_encoding.md R82, OPCODE in bits 3:0, MBZ in bits 31:4 -/

theorem test_decode_nop : decodeTableWord 32 0b00000000000000000000000000000000 = some .nop := by decide
theorem test_decode_clear : decodeTableWord 32 0b00000000000000000000000000000001 = some .clear := by decide
theorem test_decode_build_tree : decodeTableWord 32 0b00000000000000000000000000000010 = some .buildTree := by decide
theorem test_decode_assign_codes : decodeTableWord 32 0b00000000000000000000000000000011 = some .assignCodes := by decide
theorem test_decode_encode : decodeTableWord 32 0b00000000000000000000000000000100 = some .encode := by decide
theorem test_decode_decode : decodeTableWord 32 0b00000000000000000000000000000101 = some .decode := by decide
/-- 95_test_vectors.md V-C3. -/
theorem test_decode_illegal :
    [0x00000006, 0x0000000F, 0x00000012, 0x80000004, 0xFFFFFFFF].map (decodeTableWord 32) = List.replicate 5 none := by
  decide

/-- Every command runs as the first command after reset. -/
theorem test_first_commands :
    ([0, 1, 2, 3, 4, 5].map fun w => nextIs (step (State.reset.withFetchWord 32 w)) fun s => s.curOp == BitVec.ofNat 4 w) =
      List.replicate 6 true := by decide

/-! ## Commands -/

/-- 95_test_vectors.md V-C1. -/
theorem test_nop_clears_error :
    nextIs (exec .nop (accepted .nop { idle with err := true, errInfo := ⟨5, 0x54, 3⟩ })) (fun s =>
      statusWord s == 0x02 && errInfoWord s.errInfo == 0 && s.errArg == 0) = true := by decide

/-- 95_test_vectors.md V-C2. -/
theorem test_clear :
    nextIs (exec .clear (accepted .clear
        { loadFt [(0x41, 5)] idle with overrun := true, irqEn := true, ct := ct1, treeValid := true, root := 4 }))
      (fun s => statusWord s == 0x0A && s.irq && ctAt s.ct 0x41 == noCode && (ftAt s.ft 0).cnt == 0 && s.root == 0) = true := by
  decide

/-- FT = [(A,5), (B,2), (C,1)]. -/
def abc : State := accepted .buildTree (loadFt [(0x41, 5), (0x42, 2), (0x43, 1)] idle)

/-- 95_test_vectors.md V-T1. -/
theorem test_build_tree :
    nextIs (exec .buildTree abc) (fun s =>
      ((List.range 5).map fun n => (List.range 4).map (nodeWord (nodeAt s.arena n))) ==
        [[0x4101, 5, 0, 0], [0x4201, 2, 0, 0], [0x4301, 1, 0, 0], [2, 3, 0, 0x10002], [2, 8, 0, 3]] &&
      s.root == 4 && s.nodeCount == 5 && statusWord s == 0x12) = true := by decide

/-- 95_test_vectors.md V-T5: (A,1), (B,2), (A,3). -/
theorem test_build_tree_duplicate :
    nextIs (exec .buildTree (accepted .buildTree (loadFt [(0x41, 1), (0x42, 2), (0x41, 3)] idle))) (fun s =>
      errInfoWord s.errInfo == 0x00021401 && s.errArg == 2 && statusWord s == 0x04) = true := by decide

/-- V-T1's tree, ready for ASSIGN_CODES. -/
def treeAbc : State := accepted .assignCodes (nextOf (exec .buildTree abc))

/-- 95_test_vectors.md V-A1. -/
theorem test_assign_codes :
    nextIs (exec .assignCodes treeAbc) (fun s => s.ct == ct1 && ctCtrlWord (ctAt s.ct 0x42) == 0x80000002) = true := by
  decide

/-- 95_test_vectors.md V-A5. -/
theorem test_assign_codes_no_tree :
    nextIs (exec .assignCodes (accepted .assignCodes { idle with ct := ct1 })) (fun s =>
      errInfoWord s.errInfo == 0x00035405 && s.ct == ct1 && statusWord s == 0x04) = true := by decide

/-- SRC = "AAAAABBC" with CT₁. -/
def encodeAbc : State :=
  accepted .encode (loadSrc [0x41, 0x41, 0x41, 0x41, 0x41, 0x42, 0x42, 0x43] { idle with ct := ct1 })

/-- 95_test_vectors.md V-E1. -/
theorem test_encode :
    nextIs (exec .encode encodeAbc) (fun s =>
      dst s 2 == [0xFA, 0x80] && s.outLen == 2 && s.padOut == 5 && s.totalBits == 11) = true := by decide

/-- 95_test_vectors.md V-E4: SRC = "AD". -/
theorem test_encode_lookup_error :
    nextIs (exec .encode (accepted .encode (loadSrc [0x41, 0x44] { idle with ct := ct1 }))) (fun s =>
      errInfoWord s.errInfo == 0x00042102 && s.errArg == 1 && s.outLen == 0) = true := by decide

/-- SRC = FA 80, PAD_IN = 5, CT₁. -/
def decodeAbc : State := accepted .decode (loadSrc [0xFA, 0x80] { idle with ct := ct1, padIn := 5 })

/-- 95_test_vectors.md V-D1. -/
theorem test_decode :
    nextIs (exec .decode decodeAbc) (fun s =>
      dst s 8 == [0x41, 0x41, 0x41, 0x41, 0x41, 0x42, 0x42, 0x43] && s.outLen == 8 && s.totalBits == 11) = true := by
  decide

/-- 95_test_vectors.md V-D7, second row (A "10", B "1"). -/
theorem test_decode_collision :
    nextIs (exec .decode (accepted .decode { idle with ct := [(0x41, ⟨true, 2, 2⟩), (0x42, ⟨true, 1, 1⟩)] })) (fun s =>
      errInfoWord s.errInfo == 0x00054304 && s.errArg == 0x42) = true := by decide

/-! ## The slave port -/

/-- 95_test_vectors.md V-B1. -/
theorem test_bus_errors :
    [target ⟨65536⟩ 0x000 .w1, target ⟨65536⟩ 0x002 .w4, target ⟨65536⟩ 0x03C .w4, target ⟨65536⟩ 0x0FFC .w4,
      target ⟨65536⟩ 0x5FF0 .w4, target ⟨65536⟩ 0x10001 .w2, target ⟨65534⟩ (0x10000 + 65534 - 2) .w4,
      target ⟨65536⟩ 0x004 .w2] = List.replicate 8 none := by decide

/-- 95_test_vectors.md V-B2. -/
theorem test_little_endian :
    nextIs (step { idle with inputs := [.write 0x10000 .w4 0x44434241] }) (fun s =>
      srcBytes s 4 == [0x41, 0x42, 0x43, 0x44] && readBuffer s 0x10002 .w2 == 0x4443) = true := by decide

/-- 95_test_vectors.md V-B4. -/
theorem test_reserved_bits :
    nextIs (step { idle with inputs := [.write 0x2208 .w4 0xFFFFFFFF] }) (fun s =>
      readStored s .w4 (.ctCtrl 0x41) == 0x8000003F) = true := by decide

/-- 95_test_vectors.md V-H3. -/
theorem test_status_w1c :
    (statusWord (writeStatus 0x08 { idle with done := true, overrun := true, treeValid := true }) = 0x12) ∧
      statusWord (writeStatus 0xFFFFFFFF { idle with done := true, overrun := true, treeValid := true }) = 0x10 := by
  decide

/-- 95_test_vectors.md V-H2: CMD while BUSY. -/
theorem test_command_while_busy :
    nextIs (step { encodeAbc with inputs := [.write 0x004 .w4 0] }) (fun s =>
      s.overrun && s.seq == .busy 4 && s.resp == .ok) = true := by decide

/-! ## Witnesses -/

/-- A busy state of the invariant, other than reset. -/
theorem inv_busy (e : List Input) : ({ State.reset with seq := .busy 0, inputs := e } : State).Inv where
  params := rfl
  memory := rfl
  buffers := rfl
  frequencyTable := rfl
  codeTable := rfl
  doneErr := by simp [State.reset]
  errInfo := .inl rfl
  errArg := fun _ => rfl
  errCause := by simp [State.reset]
  doneNoCause := by simp [State.reset]
  busyClean := fun _ => ⟨rfl, rfl, rfl, rfl⟩
  currentOp := by
    intro w h
    cases h
    rfl
  tree := by simp [State.reset]
  noTree := fun _ => ⟨rfl, rfl, rfl⟩
  outLen := Nat.zero_le _
  totalBits := Nat.zero_le _
  inReset := by simp [State.reset]
  drawsTaken := by
    show 0 < 2 ∧ 1 < 2
    decide

theorem witness_StepRunsTheAcceptedCommand :
    ∃ (s : State) (w : Word) (i : Instr), s.rstN = true ∧ s.seq = .busy w ∧ SequencerNext s ∧ decodeWord w = .ok i :=
  ⟨encodeAbc, 4, .encode, rfl, rfl, .inl rfl, by decide⟩

theorem witness_IllegalWordsComplete :
    (∃ (w : Word) (s : State), w.extractLsb' 4 28 ≠ 0 ∧ s.rstN = true ∧ s.seq = .busy w ∧ SequencerNext s) ∧
      (∃ (w : Word) (s : State), 6 ≤ (w.extractLsb' 0 4).toNat ∧ s.rstN = true ∧ s.seq = .busy w ∧ SequencerNext s) ∧
      ∃ w : Word, ¬ (w.extractLsb' 4 28 ≠ 0 ∨ 6 ≤ (w.extractLsb' 0 4).toNat) :=
  ⟨⟨0x12, { idle with seq := .busy 0x12 }, by decide, rfl, rfl, .inl rfl⟩,
    ⟨6, { idle with seq := .busy 6 }, by decide, rfl, rfl, .inl rfl⟩, 5, by decide⟩

theorem witness_CommandIssue :
    (∃ (s : State) (w : Word) (rest : List Input), s.rstN = true ∧ s.inputs = .write 0x004 .w4 w :: rest ∧ s.seq = .idle) ∧
      (∃ (s : State) (w : Word) (rest : List Input),
        s.rstN = true ∧ s.inputs = .write 0x004 .w4 w :: rest ∧ s.busy = true) ∧
      ∃ (s : State) (w : Word) (rest : List Input), s.rstN = true ∧ s.inputs = .write 0x004 .w2 w :: rest :=
  ⟨⟨{ idle with inputs := [.write 0x004 .w4 2] }, 2, [], rfl, rfl, rfl⟩,
    ⟨{ State.reset with inputs := [.write 0x004 .w4 2] }, 2, [], rfl, rfl, rfl⟩,
    { idle with inputs := [.write 0x004 .w2 2] }, 2, [], rfl, rfl⟩

/-- The edges of the address map (20_memory.md R61), with BUF_BYTES = 4. -/
theorem witness_BusErrorsChangeNothing :
    (AllowedAccess ⟨4⟩ 0x38 .w4 ∧ ¬ AllowedAccess ⟨4⟩ 0x3C .w4 ∧ AllowedAccess ⟨4⟩ 0x17FC .w4 ∧
      ¬ AllowedAccess ⟨4⟩ 0x1800 .w4 ∧ AllowedAccess ⟨4⟩ 0x27FC .w4 ∧ ¬ AllowedAccess ⟨4⟩ 0x2800 .w4 ∧
      AllowedAccess ⟨4⟩ 0x5FEC .w4 ∧ ¬ AllowedAccess ⟨4⟩ 0x5FF0 .w4 ∧ AllowedAccess ⟨4⟩ 0x10003 .w1 ∧
      ¬ AllowedAccess ⟨4⟩ 0x10004 .w1 ∧ AllowedAccess ⟨4⟩ 0x20000 .w4 ∧ ¬ AllowedAccess ⟨4⟩ 0x20002 .w4) ∧
      ∃ (s t : State) (addr : BitVec 18) (rest : List Input), s.rstN = true ∧ t.rstN = true ∧
        s.inputs = .read addr .w4 :: rest ∧ t.inputs = .write addr .w4 5 :: rest :=
  ⟨by simp [AllowedAccess, Width.bytes],
    { idle with inputs := [.read 0x38 .w4] }, { idle with inputs := [.write 0x38 .w4 5] }, 0x38, [], rfl, rfl, rfl, rfl⟩

theorem witness_ReservedBits :
    (∃ (s t : State) (addr : BitVec 18) (rest : List Input) (d : Word), s.rstN = true ∧ addr.toNat < 0x10000 ∧
      s.inputs = .read addr .w4 :: rest ∧ step s = .next t ∧ t.resp = .data d) ∧
      ∀ addr ∈ [(0x00C : BitVec 18), 0x018, 0x01C, 0x020, 0x1000, 0x17FC, 0x2000, 0x27FC],
        ∃ (s : State) (v : Word) (rest : List Input), s.rstN = true ∧ s.seq = .idle ∧ s.inputs = .write addr .w4 v :: rest :=
  ⟨⟨{ State.reset with inputs := [.read 0x5FEC .w4] },
      nextOf (step { State.reset with inputs := [.read 0x5FEC .w4] }), 0x5FEC, [], _, rfl, by decide, rfl, rfl, rfl⟩,
    fun addr _ => ⟨{ idle with inputs := [.write addr .w4 0xFFFFFFFF] }, 0xFFFFFFFF, [], rfl, rfl, rfl⟩⟩

theorem witness_IdleReadsReturnTheFields :
    ∀ addr ∈ [(0x000 : BitVec 18), 0x038, 0x1000, 0x17FC, 0x2000, 0x27FC, 0x4000, 0x5FEC],
      ∃ (s : State) (rest : List Input), s.rstN = true ∧ s.seq = .idle ∧ s.inputs = .read addr .w4 :: rest :=
  fun addr _ => ⟨{ idle with inputs := [.read addr .w4] }, [], rfl, rfl, rfl⟩

theorem witness_StatusWriteClearsWrittenOnes :
    ∃ (s : State) (v : Word) (rest : List Input), s.rstN = true ∧ s.inputs = .write 0x008 .w4 v :: rest :=
  ⟨{ State.reset with inputs := [.write 0x008 .w4 8] }, 8, [], rfl, rfl⟩

theorem witness_BufferAccessesAreLittleEndian :
    ∃ (s t u : State) (rest : List Input), s.rstN = true ∧ s.seq = .idle ∧ s.params.wellFormed = true ∧
      t.rstN = true ∧ t.seq = .idle ∧ t.params.wellFormed = true ∧ u.rstN = true ∧ u.seq = .idle ∧
      u.params.wellFormed = true ∧ 0x1FFFE % Width.w2.bytes = 0 ∧ 0x1FFFE + Width.w2.bytes ≤ 0x10000 + s.params.bufBytes ∧
      s.inputs = .write 0x1FFFE .w2 0xABCD :: rest ∧ t.inputs = .read 0x1FFFE .w2 :: rest ∧
      0x2FFFF + Width.w1.bytes ≤ 0x20000 + u.params.bufBytes ∧ u.inputs = .read 0x2FFFF .w1 :: rest :=
  ⟨{ idle with inputs := [.write 0x1FFFE .w2 0xABCD] }, { idle with inputs := [.read 0x1FFFE .w2] },
    { idle with inputs := [.read 0x2FFFF .w1] }, [], rfl, rfl, by decide, rfl, rfl, by decide, rfl, rfl, by decide,
    by decide, by decide, rfl, rfl, by decide, rfl⟩

theorem witness_ReadOnlyTargetsIgnoreWrites :
    (∀ addr ∈ [(0x000 : BitVec 18), 0x038, 0x4000, 0x5FEC, 0x20000],
      ∃ (s : State) (v : Word) (rest : List Input), s.rstN = true ∧ s.params.wellFormed = true ∧ s.seq = .idle ∧
        s.inputs = .write addr .w4 v :: rest ∧ AllowedAccess s.params addr.toNat .w4) ∧
      ∃ (s : State) (rest : List Input), s.rstN = true ∧ s.params.wellFormed = true ∧ s.inputs = .read 0x004 .w4 :: rest := by
  refine ⟨fun addr ha => ⟨{ idle with inputs := [.write addr .w4 1] }, 1, [], rfl, rfl, rfl, rfl, ?_⟩,
    { idle with inputs := [.read 0x004 .w4] }, [], rfl, by decide, rfl⟩
  simp only [List.mem_cons, List.not_mem_nil, or_false] at ha
  rcases ha with rfl | rfl | rfl | rfl | rfl <;> simp [AllowedAccess, Width.bytes, idle, endInit, State.reset]

theorem witness_BusyWritesAreIgnored :
    ∀ addr ∈ [(0x004 : BitVec 18), 0x008, 0x00C, 0x018, 0x10000, 0x20000],
      ∃ (s : State) (v : Word) (rest : List Input), s.rstN = true ∧ s.busy = true ∧
        AllowedAccess s.params addr.toNat .w4 ∧ s.inputs = .write addr .w4 v :: rest := by
  refine fun addr ha => ⟨{ State.reset with inputs := [.write addr .w4 9] }, 9, [], rfl, rfl, ?_, rfl⟩
  simp only [List.mem_cons, List.not_mem_nil, or_false] at ha
  rcases ha with rfl | rfl | rfl | rfl | rfl | rfl <;> simp [AllowedAccess, Width.bytes, State.reset]

theorem witness_BusyReads :
    ∀ addr ∈ [(0x000 : BitVec 18), 0x004, 0x008, 0x00C, 0x010, 0x014, 0x018, 0x01C, 0x020, 0x038, 0x10000],
      ∃ (s : State) (rest : List Input), s.Inv ∧ s.rstN = true ∧ s.busy = true ∧ s.inputs = .read addr .w4 :: rest ∧
        AllowedAccess s.params addr.toNat .w4 := by
  refine fun addr ha => ⟨_, [], inv_busy [.read addr .w4], rfl, rfl, rfl, ?_⟩
  simp only [List.mem_cons, List.not_mem_nil, or_false] at ha
  rcases ha with rfl | rfl | rfl | rfl | rfl | rfl | rfl | rfl | rfl | rfl | rfl <;>
    simp [AllowedAccess, Width.bytes, State.reset]

theorem witness_ReadsHaveNoSideEffect :
    ∃ (s : State) (rest rest' : List Input), s.rstN = true ∧ s.inputs = .read 0x20000 .w1 :: rest ∧ s.seq = .idle ∧
      rest = .read 0x20000 .w1 :: rest' :=
  ⟨{ idle with inputs := [.read 0x20000 .w1, .read 0x20000 .w1] }, _, [], rfl, rfl, rfl, rfl⟩

theorem witness_ResetStopsTheCommand :
    (∃ (s : State) (rest : List Input), s.inputs = .resetLow :: rest ∧ s.rstN = true ∧ ∃ w, s.seq = .busy w) ∧
      (∃ (s : State) (rest : List Input), s.rstN = false ∧ s.inputs = .read 0 .w4 :: rest) ∧
      (∃ s : State, s.rstN = false ∧ SequencerNext s) ∧
      ∃ (s : State) (rest : List Input), s.inputs = .resetHigh :: rest ∧ s.rstN = false :=
  ⟨⟨{ encodeAbc with inputs := [.resetLow] }, [], rfl, rfl, 4, rfl⟩,
    ⟨{ idle with rstN := false, inputs := [.read 0 .w4] }, [], rfl, rfl⟩, ⟨{ idle with rstN := false }, rfl, .inl rfl⟩,
    { idle with rstN := false, inputs := [.resetHigh] }, [], rfl, rfl⟩

theorem witness_InitSetsTheResetValues :
    (∃ (s : State) (rest : List Input), s.inputs = .resetHigh :: rest ∧ s.rstN = false) ∧
      ∃ s : State, s.seq = .init ∧ s.rstN = true ∧ SequencerNext s ∧ s.irq = false :=
  ⟨⟨{ idle with rstN := false, inputs := [.resetHigh] }, [], rfl, rfl⟩, State.reset, rfl, rfl, .inl rfl, rfl⟩

theorem witness_InterruptRisesAtCompletion :
    (∃ s t : State, step s = .next t ∧ s.irq = false ∧ t.irq = true ∧ SequencerNext s) ∧
      (∃ s t : State, step s = .next t ∧ s.irq = false ∧ t.irq = true ∧ s.seq = .idle) ∧
      ∃ (s t : State) (w : Word), step s = .next t ∧ t.seq = .busy w ∧ s.seq = .idle :=
  ⟨⟨{ accepted .nop idle with irqEn := true }, _, rfl, rfl, rfl, .inl rfl⟩,
    ⟨{ idle with done := true, inputs := [.write 0x00C .w4 1] }, nextOf (step
      { idle with done := true, inputs := [.write 0x00C .w4 1] }), rfl, rfl, by decide, rfl⟩,
    { idle with inputs := [.write 0x004 .w4 2] }, nextOf (step { idle with inputs := [.write 0x004 .w4 2] }), 2, rfl,
    by decide, rfl⟩

theorem witness_StepKeepsInvariant : ∃ s t : State, s.Inv ∧ step s = .next t := ⟨_, _, inv_busy [], rfl⟩

theorem witness_InvariantStatesNeverStop : ∃ s : State, s.Inv ∧ HostKeepsReset s := ⟨_, inv_busy [], .inl rfl⟩

theorem witness_AcceptedCommandsComplete :
    ∃ (s : State) (w : Word), s.Inv ∧ s.rstN = true ∧ s.seq = .busy w ∧ SequencerNext s :=
  ⟨_, 0, inv_busy [], rfl, rfl, .inl rfl⟩

/-! ### Tables and trees -/

/-- The table of V-T1. -/
def esAbc : List FtEntry := [⟨0x41, 5⟩, ⟨0x42, 2⟩, ⟨0x43, 1⟩]

theorem validTable_abc : ValidTable esAbc where
  nonempty := by decide
  bounded := by decide
  positive := by decide
  distinct := by decide

theorem witness_BuildTreeCompletes : ∃ s : State, ValidTable (ftEntries s.ft s.ftLen.toNat) := ⟨abc, validTable_abc⟩

/-- The state after V-T1. -/
def builtAbc : State := nextOf (exec .buildTree abc)

theorem succeeds_abc : Succeeds .buildTree abc builtAbc := ⟨rfl, by decide⟩

theorem witness_ArenaLayout : ∃ s t : State, Succeeds .buildTree s t ∧ 2 ≤ s.ftLen.toNat := ⟨_, _, succeeds_abc, by decide⟩

/-- The boundary k = 1 of ArenaLayout (95_test_vectors.md V-T3). -/
theorem witness_ArenaLayout_single : ∃ s t : State, Succeeds .buildTree s t ∧ s.ftLen.toNat = 1 :=
  ⟨accepted .buildTree (loadFt [(0x41, 1000)] idle), _, ⟨rfl, by decide⟩, by decide⟩

theorem witness_MergesTheTwoLeastNodes :
    ∃ s t : State, Succeeds .buildTree s t ∧ ∃ n f l r, nodeAt t.arena n = some (.internal f l r) :=
  ⟨_, _, succeeds_abc, 3, 3, 2, 1, by decide⟩

theorem witness_RootFrequencyIsTheSumOfCounts :
    ∃ s t : State, Succeeds .buildTree s t ∧ ∃ n f l r c x, nodeAt t.arena n = some (.internal f l r) ∧ c = l.toNat ∧
      nodeAt t.arena c = some x :=
  ⟨_, _, succeeds_abc, 3, 3, 2, 1, _, .leaf 0x43 1, by decide, rfl, by decide⟩

/-- Two symbols of one count: FT = [(X,50), (Y,50)] (95_test_vectors.md V-T9). -/
def xy : State := accepted .buildTree (loadFt [(0x58, 50), (0x59, 50)] idle)

def builtXy : State := nextOf (exec .buildTree xy)

theorem succeeds_xy : Succeeds .buildTree xy builtXy := ⟨rfl, by decide⟩

theorem arena_xy : builtXy.arena = [.leaf 0x58 50, .leaf 0x59 50, .internal 100 0 1] := by decide

theorem path_x : PathTo builtXy.arena builtXy.root.toNat [false] 0x58 :=
  .left (n := 2) (f := 100) (l := 0) (r := 1) (by decide) (.leaf (f := 50) (by decide))

theorem path_y : PathTo builtXy.arena builtXy.root.toNat [true] 0x59 :=
  .right (n := 2) (f := 100) (l := 0) (r := 1) (by decide) (.leaf (f := 50) (by decide))

/-- Both ends of TreeIsOptimal: k = 2 with a prefix-free code of its two symbols, and k = 1. -/
theorem witness_TreeIsOptimal :
    (∃ (s t : State) (code : Byte → List Bool), Succeeds .buildTree s t ∧ 2 ≤ s.ftLen.toNat ∧
      ∀ a ∈ ftEntries s.ft s.ftLen.toNat, ∀ b ∈ ftEntries s.ft s.ftLen.toNat, a.sym ≠ b.sym →
        ¬ Comparable (code a.sym) (code b.sym)) ∧
      ∃ s t : State, Succeeds .buildTree s t ∧ s.ftLen.toNat = 1 := by
  refine ⟨⟨xy, builtXy, fun c => [c == 0x58], succeeds_xy, by decide, ?_⟩, witness_ArenaLayout_single⟩
  unfold Comparable
  decide

/-- One witness for each clause of BuildTreeErrors, at the edges of FT_LEN. -/
theorem witness_BuildTreeErrors :
    (∃ s : State, s.ftLen.toNat = 257) ∧ (∃ s : State, s.ftLen.toNat = 0) ∧
      (∃ s : State, (ftEntries s.ft s.ftLen.toNat).length = 256 ∧ (ftAt s.ft 0).cnt = 0) ∧
      ∃ s : State, (ftEntries s.ft s.ftLen.toNat).length ≤ 256 ∧ 1 < (ftEntries s.ft s.ftLen.toNat).length ∧
        (∀ j, j < 1 → (ftAt s.ft j).cnt ≠ 0 ∧ ∀ h, h < j → (ftAt s.ft h).sym ≠ (ftAt s.ft j).sym) ∧
        (ftAt s.ft 1).cnt ≠ 0 ∧ ∃ j, j < 1 ∧ (ftAt s.ft j).sym = (ftAt s.ft 1).sym :=
  ⟨⟨{ idle with ftLen := 257 }, by decide⟩, ⟨idle, by decide⟩, ⟨{ idle with ftLen := 256 }, by simp, by decide⟩,
    loadFt [(0x41, 1), (0x41, 2)] idle, by decide, by decide, by decide, by decide, 0, by decide, by decide⟩

theorem witness_BuildTreeErrorOutputs : ∃ s : State, ¬ ValidTable (ftEntries s.ft s.ftLen.toNat) :=
  ⟨idle, fun h => h.nonempty (by decide)⟩

/-- BUILD_TREE's result holds the tree of its table. -/
theorem holds_xy (s : State) (ha : s.arena = builtXy.arena) (hr : s.root = builtXy.root)
    (hn : s.nodeCount = builtXy.nodeCount) : HoldsTree [⟨0x58, 50⟩, ⟨0x59, 50⟩] s where
  table := ⟨by decide, by decide, by decide, by decide⟩
  arena := by rw [ha]; decide
  root := by rw [hr]; decide
  nodeCount := by rw [hn]; decide

theorem witness_AssignCodesWritesThePaths :
    ∃ (s : State) (es : List FtEntry), s.treeValid = true ∧ HoldsTree es s ∧ 2 ≤ es.length ∧
      (∀ p c, PathTo s.arena s.root.toNat p c → p.length ≤ 32) ∧ ∃ p c, PathTo s.arena s.root.toNat p c := by
  refine ⟨builtXy, _, by decide, holds_xy _ rfl rfl rfl, by decide, fun p c h => ?_, _, _, path_x⟩
  refine le_trans (pathTo_length _ (fun n f l r hn => ?_) _ p c h) (by decide)
  rw [arena_xy] at hn
  have : n = 0 ∨ n = 1 ∨ n = 2 ∨ 3 ≤ n := by omega
  rcases this with rfl | rfl | rfl | hlt
  · simp [nodeAt] at hn
  · simp [nodeAt] at hn
  · simp only [nodeAt, List.getElem?_cons_succ, List.getElem?_cons_zero, Option.some.injEq, Node.internal.injEq] at hn
    rw [← hn.2.1, ← hn.2.2]
    decide
  · obtain ⟨hlen, -⟩ := List.getElem?_eq_some_iff.1 hn
    simp only [List.length_cons, List.length_nil] at hlen
    omega

/-- The tree of one leaf (95_test_vectors.md V-T3). -/
def builtA : State := nextOf (exec .buildTree (accepted .buildTree (loadFt [(0x41, 1000)] idle)))

theorem witness_SingleLeafGetsOneZeroBit : ∃ (s : State) (e : FtEntry), s.treeValid = true ∧ HoldsTree [e] s :=
  ⟨builtA, ⟨0x41, 1000⟩, by decide, ⟨by decide, by decide, by decide, by decide⟩, by decide, by decide, by decide⟩

/-- The first n Fibonacci numbers from (a, b) on. -/
def fibs : Nat → Nat → Nat → List Nat
  | 0, _, _ => []
  | n + 1, a, b => a :: fibs n b (a + b)

/-- FT[i] = (i, F(i+1)) for i = 0..33 (95_test_vectors.md V-A4). -/
def esFib : List FtEntry := (List.range 34).zip (fibs 34 1 1) |>.map fun x => ⟨BitVec.ofNat 8 x.1, BitVec.ofNat 32 x.2⟩

/-- The state with the tree of V-A4. -/
def builtFib : State :=
  { accepted .assignCodes idle with
    arena := (buildArena esFib).2
    root := BitVec.ofNat 9 (buildArena esFib).1
    nodeCount := BitVec.ofNat 9 (buildArena esFib).2.length
    treeValid := true }

theorem holds_fib : HoldsTree esFib builtFib where
  table := ⟨by decide +kernel, by decide +kernel, by decide +kernel, by decide +kernel⟩
  arena := rfl
  root := rfl
  nodeCount := rfl

theorem witness_CodeTooLongIsReported :
    ∃ (s : State) (es : List FtEntry) (p : List Bool) (c : Byte), s.treeValid = true ∧ HoldsTree es s ∧
      PathTo s.arena s.root.toNat p c ∧ 32 < p.length ∧
      ∀ q d, PathTo s.arena s.root.toNat q d → 32 < q.length → q = p ∨ PreorderBefore p q := by
  have listed : ∀ x ∈ paths builtFib.arena 100 builtFib.root.toNat, 32 < x.1.length →
      x.1 = List.replicate 32 true ++ [false] ∨ x.1 = List.replicate 32 true ++ [true] := by decide +kernel
  have children : ∀ n, n < 67 → ∀ f l r, nodeAt builtFib.arena n = some (.internal f l r) → l.toNat < n ∧ r.toNat < n := by
    have check : ∀ n, n < 67 → (match nodeAt builtFib.arena n with
        | some (.internal _ l r) => decide (l.toNat < n ∧ r.toNat < n)
        | some (.leaf _ _) => true
        | none => true) = true := by decide +kernel
    intro n hn f l r h
    have := check n hn
    rw [h] at this
    simpa using this
  have below : ∀ n f l r, nodeAt builtFib.arena n = some (.internal f l r) → l.toNat < n ∧ r.toNat < n := by
    intro n f l r h
    have hlen : builtFib.arena.length = 67 := by decide +kernel
    obtain ⟨hn, -⟩ := List.getElem?_eq_some_iff.1 h
    exact children n (by omega) f l r h
  refine ⟨builtFib, esFib, List.replicate 32 true ++ [false], 0, rfl, holds_fib, ?_, by decide, fun q d h hq => ?_⟩
  · exact paths_sound _ 100 _ _ _ (by decide +kernel)
  · have hshort : q.length < 100 :=
      lt_of_le_of_lt (pathTo_length _ below _ _ _ h) (by decide +kernel)
    rcases listed _ (mem_paths _ 100 _ _ _ h hshort) hq with e | e
    · exact .inl e
    · exact .inr ⟨List.replicate 32 true, [], [], rfl, e⟩

/-- 95_test_vectors.md V-A4. -/
theorem test_assign_codes_too_long :
    nextIs (exec .assignCodes builtFib) (fun s =>
      errInfoWord s.errInfo == 0x00033103 && s.errArg == 0 && s.ct == [] && statusWord s == 0x14) = true := by
  decide +kernel

theorem succeeds_assign_xy : Succeeds .assignCodes builtXy (nextOf (exec .assignCodes builtXy)) := ⟨rfl, by decide⟩

theorem witness_AssignCodesTableOutputs :
    (∃ (s t : State) (es : List FtEntry), exec .assignCodes s = .next t ∧ t.err = false ∧ s.treeValid = true ∧
      HoldsTree es s) ∧
      (∃ s t : State, exec .assignCodes s = .next t ∧ s.errInfo ≠ ⟨3, 0x31, s.curOp⟩ ∧ t.errInfo = ⟨3, 0x31, s.curOp⟩) ∧
      ∃ s t : State, exec .assignCodes s = .next t ∧ s.treeValid = false :=
  ⟨⟨builtXy, _, _, rfl, by decide, by decide, holds_xy _ rfl rfl rfl⟩,
    ⟨builtFib, nextOf (exec .assignCodes builtFib), by
      rcases exec_assignCodes builtFib with ⟨-, e⟩ | ⟨-, ct, -, e⟩ | ⟨-, c, -, e⟩ | ⟨-, -, e⟩
      · rw [e]; rfl
      · rw [e]; rfl
      · rw [e]; rfl
      · exact absurd test_assign_codes_too_long (by rw [e]; decide), by decide +kernel, by decide +kernel⟩,
    idle, _, rfl, rfl⟩

theorem witness_AssignedCodesArePrefixFree :
    (∃ (s t : State) (es : List FtEntry), s.treeValid = true ∧ HoldsTree es s ∧ Succeeds .assignCodes s t ∧ 2 ≤ es.length) ∧
      ∃ (s t : State) (es : List FtEntry), s.treeValid = true ∧ HoldsTree es s ∧ Succeeds .assignCodes s t ∧ es.length = 1 :=
  ⟨⟨_, _, _, by decide, holds_xy _ rfl rfl rfl, succeeds_assign_xy, by decide⟩,
    builtA, nextOf (exec .assignCodes builtA), [⟨0x41, 1000⟩], by decide,
    ⟨⟨by decide, by decide, by decide, by decide⟩, by decide, by decide, by decide⟩, ⟨rfl, by decide⟩, rfl⟩

/-! ### ENCODE and DECODE -/

theorem hasCode_ct2 (c : Byte) : HasCode ct2 c ↔ c = 0x58 ∨ c = 0x59 := by
  have : ∀ c : Byte, (ctAt ct2 c).valid = true ↔ c = 0x58 ∨ c = 0x59 := by decide +kernel
  exact this c

theorem codeOf_x : codeOf ct2 0x58 = [false] := by decide

theorem codeOf_y : codeOf ct2 0x59 = [true] := by decide

theorem canonical_ct2 : CanonicalTable ct2 := by
  show Sparse.wfOr noCode 256 ct2 = true
  decide

theorem legal_ct2 : LegalTable ct2 := by
  intro c hc
  rcases (hasCode_ct2 c).1 hc with rfl | rfl <;> decide

theorem prefixFree_ct2 : PrefixFree ct2 := by
  intro a b ha hb hab
  unfold Comparable
  rcases (hasCode_ct2 a).1 ha with rfl | rfl <;> rcases (hasCode_ct2 b).1 hb with rfl | rfl
  · exact absurd rfl hab
  · rw [codeOf_x, codeOf_y]; decide
  · rw [codeOf_x, codeOf_y]; decide
  · exact absurd rfl hab

theorem complete_ct2 : CompleteTable ct2 := by
  refine ⟨⟨0x58, (hasCode_ct2 _).2 (.inl rfl)⟩, fun p b c hc hp hne => ?_⟩
  have hp' : p = [] := by
    rcases (hasCode_ct2 c).1 hc with rfl | rfl
    · rw [codeOf_x] at hp hne
      rcases List.prefix_cons_iff.1 hp with h | ⟨q, h, hq⟩
      · exact h
      · rw [List.prefix_nil] at hq
        exact absurd (by rw [h, hq]) hne
    · rw [codeOf_y] at hp hne
      rcases List.prefix_cons_iff.1 hp with h | ⟨q, h, hq⟩
      · exact h
      · rw [List.prefix_nil] at hq
        exact absurd (by rw [h, hq]) hne
  subst hp'
  cases b
  · exact ⟨0x58, (hasCode_ct2 _).2 (.inl rfl), by rw [codeOf_x]; decide⟩
  · exact ⟨0x59, (hasCode_ct2 _).2 (.inr rfl), by rw [codeOf_y]; decide⟩

/-- ENCODE of "XY" with BUF_BYTES = n. -/
def encodeXy (n : Nat) : State :=
  accepted .encode (loadSrc [0x58, 0x59] { idle with ct := ct2, params := ⟨n⟩ })

theorem sources_xy (n : Nat) (i : Nat) (h : i < 2) : HasCode (encodeXy n).ct (srcByte (encodeXy n) i) := by
  have : i = 0 ∨ i = 1 := by omega
  rcases this with rfl | rfl
  · exact (hasCode_ct2 _).2 (.inl rfl)
  · exact (hasCode_ct2 _).2 (.inr rfl)

/-- At the boundary SRC_LEN = BUF_BYTES. -/
theorem witness_EncodePacksTheCodes :
    ∃ s : State, s.params.wellFormed = true ∧ CanonicalTable s.ct ∧ 1 ≤ s.srcLen.toNat ∧
      s.srcLen.toNat ≤ s.params.bufBytes ∧ LegalTable s.ct ∧ (∀ i, i < s.srcLen.toNat → HasCode s.ct (srcByte s i)) ∧
      ceilDiv8 (bitsOf s.ct (srcBytes s s.srcLen.toNat)).length ≤ s.params.bufBytes :=
  ⟨encodeXy 2, by decide, canonical_ct2, by decide, by decide, legal_ct2, sources_xy 2, by decide⟩

/-- A table whose code of X has 32 bits, so that one byte of DST is too small. -/
def ctWide : List (Nat × CtEntry) := [(0x58, ⟨true, 32, 5⟩)]

theorem hasCode_ctWide (c : Byte) : HasCode ctWide c ↔ c = 0x58 := by
  have : ∀ c : Byte, (ctAt ctWide c).valid = true ↔ c = 0x58 := by decide +kernel
  exact this c

theorem witness_EncodeErrors :
    (∃ s : State, s.params.bufBytes < s.srcLen.toNat) ∧ (∃ s : State, s.srcLen.toNat = 0) ∧
      (∃ s : State, s.srcLen.toNat ≤ s.params.bufBytes ∧ CanonicalTable s.ct ∧ LegalTable s.ct ∧ 2 < s.srcLen.toNat ∧
        (∀ j, j < 2 → HasCode s.ct (srcByte s j)) ∧
        ceilDiv8 (bitsOf s.ct (srcBytes s 2)).length ≤ s.params.bufBytes ∧ ¬ HasCode s.ct (srcByte s 2)) ∧
      ∃ s : State, s.srcLen.toNat ≤ s.params.bufBytes ∧ CanonicalTable s.ct ∧ LegalTable s.ct ∧ 0 < s.srcLen.toNat ∧
        ceilDiv8 (bitsOf s.ct (srcBytes s 0)).length ≤ s.params.bufBytes ∧ HasCode s.ct (srcByte s 0) ∧
        ¬ ceilDiv8 (bitsOf s.ct (srcBytes s 1)).length ≤ s.params.bufBytes := by
  refine ⟨⟨{ idle with srcLen := 65537 }, by decide⟩, ⟨idle, by decide⟩,
    ⟨loadSrc [0x58, 0x59, 0x41] { idle with ct := ct2 }, by decide, canonical_ct2, legal_ct2, by decide, ?_, by decide,
      ?_⟩,
    loadSrc [0x58] { idle with ct := ctWide, params := ⟨1⟩ }, by decide, ?_, ?_, by decide, by decide, ?_, by decide⟩
  · intro j hj
    have : j = 0 ∨ j = 1 := by omega
    rcases this with rfl | rfl <;> exact (hasCode_ct2 _).2 (by decide)
  · exact fun h => absurd ((hasCode_ct2 _).1 h) (by decide)
  · show Sparse.wfOr noCode 256 ctWide = true
    decide
  · intro c hc
    rw [(hasCode_ctWide c).1 hc]
    decide
  · exact (hasCode_ctWide _).2 (by decide)

/-- The table of 95_test_vectors.md V-D8, {A: valid, len 0}. -/
def ctBad : List (Nat × CtEntry) := [(0x41, ⟨true, 0, 0⟩)]

theorem witness_IllegalEntriesAreReported :
    ∃ (s : State) (c : Byte), CanonicalTable s.ct ∧ s.srcLen.toNat ≤ s.params.bufBytes ∧ HasCode s.ct c ∧
      (ctAt s.ct c).illegal = true ∧
      (∀ d, d.toNat < c.toNat → HasCode s.ct d → (ctAt s.ct d).illegal = false) ∧ 1 ≤ s.srcLen.toNat := by
  refine ⟨loadSrc [0x41] { idle with ct := ctBad }, 0x41, ?_, by decide, ?_, by decide, ?_, by decide⟩
  · show Sparse.wfOr noCode 256 ctBad = true
    decide
  · show (ctAt ctBad 0x41).valid = true
    decide
  · have : ∀ d : Byte, d.toNat < (0x41 : Byte).toNat → (ctAt ctBad d).valid = true → (ctAt ctBad d).illegal = false := by
      decide +kernel
    exact this

theorem succeeds_encodeXy : Succeeds .encode (encodeXy 2) (nextOf (exec .encode (encodeXy 2))) := ⟨rfl, by decide⟩

theorem witness_PadLengthAndFiller :
    ∃ s t : State, s.params.wellFormed = true ∧ Succeeds .encode s t ∧ ∃ q, q < t.padOut.toNat :=
  ⟨_, _, by decide, succeeds_encodeXy, 5, by decide⟩

theorem witness_TotalBitsIsTheWeightedLength : ∃ s t : State, s.params.wellFormed = true ∧ Succeeds .encode s t :=
  ⟨_, _, by decide, succeeds_encodeXy⟩

theorem witness_CodecErrorOutputs :
    (∃ s t : State, s.err = false ∧ exec .encode s = .next t ∧ t.err = true) ∧
      ∃ s t : State, s.err = false ∧ exec .decode s = .next t ∧ t.err = true :=
  ⟨⟨idle, _, rfl, rfl, rfl⟩, { idle with srcLen := 65537 }, nextOf (exec .decode { idle with srcLen := 65537 }), rfl, rfl,
    by decide⟩

theorem witness_UnpackingInvertsPacking :
    ∃ (s : State) (b : List Bool),
      (∀ m q, m < ceilDiv8 b.length → q < 8 →
        (readByte s (0x10000 + m)).getLsbD (7 - q) = b.getD (8 * m + q) false) ∧
      s.srcLen.toNat = ceilDiv8 b.length ∧ s.padIn.toNat = 8 * ceilDiv8 b.length - b.length ∧ b ≠ [] ∧ 0 < nbits s := by
  refine ⟨loadSrc [0xA0] { idle with padIn := 5 }, [true, false, true], ?_, by decide, by decide, by decide, by decide⟩
  intro m q hm hq
  obtain rfl : m = 0 := by
    have : ceilDiv8 [true, false, true].length = 1 := by decide
    omega
  revert q
  decide

/-- SRC = 40, PAD_IN = 6: the bits 0 1, "XY" with the table X "0", Y "1" (95_test_vectors.md V-D6). -/
def decodeXy : State := accepted .decode (loadSrc [0x40] { idle with ct := ct2, padIn := 6 })

theorem witness_DecodeWritesTheSymbols :
    ∃ (s : State) (symbols : List Byte), s.params.wellFormed = true ∧ CanonicalTable s.ct ∧
      s.srcLen.toNat ≤ s.params.bufBytes ∧ LegalTable s.ct ∧ PrefixFree s.ct ∧ (∀ c ∈ symbols, HasCode s.ct c) ∧
      srcBits s = bitsOf s.ct symbols ∧ symbols.length ≤ s.params.bufBytes ∧ symbols ≠ [] := by
  refine ⟨decodeXy, [0x58, 0x59], by decide, canonical_ct2, by decide, legal_ct2, prefixFree_ct2, ?_, by decide, by decide,
    by decide⟩
  intro c hc
  exact (hasCode_ct2 c).2 (by simpa using hc)

/-- The table A "0" (95_test_vectors.md V-D13), and Z "10" beside it. -/
def ctAz : List (Nat × CtEntry) := [(0x41, ⟨true, 1, 0⟩), (0x5A, ⟨true, 2, 2⟩)]

theorem hasCode_ctAz (c : Byte) : HasCode ctAz c ↔ c = 0x41 ∨ c = 0x5A := by
  have : ∀ c : Byte, (ctAt ctAz c).valid = true ↔ c = 0x41 ∨ c = 0x5A := by decide +kernel
  exact this c

theorem codeOf_a : codeOf ctAz 0x41 = [false] := by decide

theorem codeOf_z : codeOf ctAz 0x5A = [true, false] := by decide

theorem table_ctAz : CanonicalTable ctAz ∧ LegalTable ctAz ∧ PrefixFree ctAz := by
  refine ⟨?_, ?_, ?_⟩
  · show Sparse.wfOr noCode 256 ctAz = true
    decide
  · intro c hc
    rcases (hasCode_ctAz c).1 hc with rfl | rfl <;> decide
  · intro a b ha hb hab
    unfold Comparable
    rcases (hasCode_ctAz a).1 ha with rfl | rfl <;> rcases (hasCode_ctAz b).1 hb with rfl | rfl
    · exact absurd rfl hab
    · rw [codeOf_a, codeOf_z]; decide
    · rw [codeOf_a, codeOf_z]; decide
    · exact absurd rfl hab

/-- Bits of SRC with the table A "0", Z "10" and BUF_BYTES = n. -/
def decodeAz (byte : Byte) (pad : BitVec 3) (n : Nat) : State :=
  accepted .decode (loadSrc [byte] { idle with ct := ctAz, padIn := pad, params := ⟨n⟩ })

/-- The three ends of a walk: bits 0 1 1 (no child for the last), 0 1 (inside Z), and 0 10 with room for one symbol. -/
theorem witness_DecodeErrors :
    (∃ s : State, s.params.bufBytes < s.srcLen.toNat) ∧
      (∃ (s : State) (symbols : List Byte) (p : List Bool) (b : Bool) (rest : List Bool),
        s.srcLen.toNat ≤ s.params.bufBytes ∧ CanonicalTable s.ct ∧ LegalTable s.ct ∧ PrefixFree s.ct ∧
        (∀ c ∈ symbols, HasCode s.ct c) ∧ symbols.length ≤ s.params.bufBytes ∧
        (∃ c, HasCode s.ct c ∧ p <+: codeOf s.ct c) ∧ srcBits s = bitsOf s.ct symbols ++ p ++ b :: rest ∧
        ¬ ∃ c, HasCode s.ct c ∧ Comparable (p ++ [b]) (codeOf s.ct c)) ∧
      (∃ (s : State) (symbols : List Byte) (p : List Bool) (c : Byte),
        s.srcLen.toNat ≤ s.params.bufBytes ∧ CanonicalTable s.ct ∧ LegalTable s.ct ∧ PrefixFree s.ct ∧
        (∀ c ∈ symbols, HasCode s.ct c) ∧ symbols.length ≤ s.params.bufBytes ∧ HasCode s.ct c ∧ p <+: codeOf s.ct c ∧
        p ≠ codeOf s.ct c ∧ p ≠ [] ∧ srcBits s = bitsOf s.ct symbols ++ p) ∧
      ∃ (s : State) (symbols : List Byte) (c : Byte) (rest : List Bool),
        s.srcLen.toNat ≤ s.params.bufBytes ∧ CanonicalTable s.ct ∧ LegalTable s.ct ∧ PrefixFree s.ct ∧
        (∀ c ∈ symbols, HasCode s.ct c) ∧ symbols.length = s.params.bufBytes ∧ HasCode s.ct c ∧
        srcBits s = bitsOf s.ct symbols ++ codeOf s.ct c ++ rest := by
  obtain ⟨h1, h2, h3⟩ := table_ctAz
  have hsym : ∀ c ∈ [(0x41 : Byte)], HasCode ctAz c := fun c hc => (hasCode_ctAz c).2 (.inl (by simpa using hc))
  have hz : HasCode ctAz 0x5A := (hasCode_ctAz _).2 (.inr rfl)
  refine ⟨⟨{ idle with srcLen := 65537 }, by decide⟩,
    ⟨decodeAz 0x60 0 8, [0x41], [true], true, [false, false, false, false, false], by decide, h1, h2, h3, hsym, by decide,
      ⟨0x5A, hz, ?_⟩, by decide, ?_⟩,
    ⟨decodeAz 0x40 6 8, [0x41], [true], 0x5A, by decide, h1, h2, h3, hsym, by decide, hz, ?_, ?_, by decide, by decide⟩,
    decodeAz 0x40 5 1, [0x41], 0x5A, [], by decide, h1, h2, h3, hsym, by decide, hz, by decide⟩
  · show [true] <+: codeOf ctAz 0x5A
    rw [codeOf_z]
    decide
  · rintro ⟨c, hc, hcomp⟩
    have hc' : c = 0x41 ∨ c = 0x5A := (hasCode_ctAz c).1 hc
    have hcomp' : Comparable [true, true] (codeOf ctAz c) := hcomp
    unfold Comparable at hcomp'
    rcases hc' with rfl | rfl
    · rw [codeOf_a] at hcomp'
      revert hcomp'
      decide
    · rw [codeOf_z] at hcomp'
      revert hcomp'
      decide
  · show [true] <+: codeOf ctAz 0x5A
    rw [codeOf_z]
    decide
  · show [true] ≠ codeOf ctAz 0x5A
    rw [codeOf_z]
    decide

/-- The table of 95_test_vectors.md V-D7, third row (A "0", B "0"). -/
def ctEqual : List (Nat × CtEntry) := [(0x41, ⟨true, 1, 0⟩), (0x42, ⟨true, 1, 0⟩)]

theorem witness_CollidingCodesAreReported :
    ∃ (s : State) (a c : Byte), s.srcLen.toNat ≤ s.params.bufBytes ∧ CanonicalTable s.ct ∧ LegalTable s.ct ∧
      HasCode s.ct a ∧ HasCode s.ct c ∧ a.toNat < c.toNat ∧ Comparable (codeOf s.ct a) (codeOf s.ct c) ∧
      ∀ d e, HasCode s.ct d → HasCode s.ct e → d.toNat < e.toNat → e.toNat < c.toNat →
        ¬ Comparable (codeOf s.ct d) (codeOf s.ct e) := by
  have hcode : ∀ c : Byte, (ctAt ctEqual c).valid = true ↔ c = 0x41 ∨ c = 0x42 := by decide +kernel
  refine ⟨{ idle with ct := ctEqual }, 0x41, 0x42, by decide, ?_, ?_, (hcode _).2 (.inl rfl), (hcode _).2 (.inr rfl),
    by decide, ?_, ?_⟩
  · show Sparse.wfOr noCode 256 ctEqual = true
    decide
  · intro c hc
    rcases (hcode c).1 hc with rfl | rfl <;> decide
  · show Comparable (codeOf ctEqual 0x41) (codeOf ctEqual 0x42)
    exact .inl (by decide)
  · intro d e hd he hlt hle
    exfalso
    rcases (hcode d).1 hd with rfl | rfl <;> rcases (hcode e).1 he with rfl | rfl <;> revert hlt hle <;> decide

theorem witness_TrieFits :
    ∃ (ct : List (Nat × CtEntry)) (trie : Trie), CanonicalTable ct ∧ LegalTable ct ∧ trieOf ct = .ok trie :=
  ⟨ct2, .node (.leaf 0x58) (.leaf 0x59), canonical_ct2, legal_ct2, by decide⟩

theorem witness_CompleteTablesNeverMissAChild :
    ∃ s t : State, CanonicalTable s.ct ∧ CompleteTable s.ct ∧ s.errInfo = ⟨0, 0, 0⟩ ∧ exec .decode s = .next t :=
  ⟨decodeXy, _, canonical_ct2, complete_ct2, rfl, rfl⟩

theorem witness_CodecReadsOnlyItsOperands :
    (∃ s t u : State, (∀ j, j < s.srcLen.toNat → srcByte u j = srcByte s j) ∧ u.params = s.params ∧
      u.srcLen = s.srcLen ∧ u.ct = s.ct ∧ u.err = false ∧ s.params.wellFormed = true ∧ Succeeds .encode s t ∧
      u.treeValid ≠ s.treeValid) ∧
      ∃ s t u : State, u.padIn = s.padIn ∧ (∀ j, j < nbits s → srcBit u j = srcBit s j) ∧ u.params = s.params ∧
        u.srcLen = s.srcLen ∧ u.ct = s.ct ∧ u.err = false ∧ s.params.wellFormed = true ∧ Succeeds .decode s t ∧
        srcByte u 0 ≠ srcByte s 0 :=
  ⟨⟨encodeXy 2, _, { encodeXy 2 with treeValid := true }, fun _ _ => rfl, rfl, rfl, rfl, rfl, by decide,
      succeeds_encodeXy, by decide⟩,
    decodeXy, nextOf (exec .decode decodeXy),
    accepted .decode (loadSrc [0x7F] { idle with ct := ct2, padIn := 6 }), rfl, by decide, rfl, rfl, rfl, rfl, by decide,
    ⟨rfl, by decide⟩, by decide⟩

/-- The chain of RoundTripReproducesTheInput for the input "XXY". -/
def chain1 : State := accepted .buildTree (loadFt [(0x58, 2), (0x59, 1)] idle)

def chain2 : State := nextOf (exec .buildTree chain1)

def chain3 : State := accepted .encode (loadSrc [0x58, 0x58, 0x59] (nextOf (exec .assignCodes chain2)))

def chain4 : State :=
  accepted .decode (loadSrc [0xC0] { nextOf (exec .encode chain3) with srcLen := 1, padIn := 5 })

theorem chain_buildTree : Succeeds .buildTree chain1 chain2 :=
  ⟨next_of_nextIs (by decide +kernel), by decide +kernel⟩

theorem chain_assignCodes : Succeeds .assignCodes chain2 (nextOf (exec .assignCodes chain2)) :=
  ⟨next_of_nextIs (by decide +kernel), by decide +kernel⟩

theorem chain_encode : Succeeds .encode chain3 (nextOf (exec .encode chain3)) :=
  ⟨next_of_nextIs (by decide +kernel), by decide +kernel⟩

theorem chain_bytes :
    ∀ j, j < (nextOf (exec .encode chain3)).outLen.toNat →
      srcByte chain4 j = readByte (nextOf (exec .encode chain3)) (0x20000 + j) := by
  decide +kernel

theorem witness_RoundTripReproducesTheInput :
    ∃ (bytes : List Byte) (s1 t1 s2 t2 s3 t3 s4 : State),
      s3.params.wellFormed = true ∧ 1 ≤ bytes.length ∧ bytes.length ≤ s3.params.bufBytes ∧
      ftEntries s1.ft s1.ftLen.toNat = freqModel bytes ∧ Succeeds .buildTree s1 t1 ∧
      s2.arena = t1.arena ∧ s2.root = t1.root ∧ s2.treeValid = true ∧ Succeeds .assignCodes s2 t2 ∧
      s3.ct = t2.ct ∧ s3.srcLen.toNat = bytes.length ∧ srcBytes s3 bytes.length = bytes ∧ Succeeds .encode s3 t3 ∧
      s4.params = s3.params ∧ s4.ct = t2.ct ∧ s4.srcLen = t3.outLen ∧ s4.padIn = t3.padOut ∧ s4.err = false ∧
      ∀ j, j < t3.outLen.toNat → srcByte s4 j = readByte t3 (0x20000 + j) :=
  ⟨[0x58, 0x58, 0x59], chain1, chain2, chain2, nextOf (exec .assignCodes chain2), chain3, nextOf (exec .encode chain3),
    chain4, by decide +kernel, by decide, by decide +kernel, by decide +kernel, chain_buildTree, rfl, rfl,
    by decide +kernel, chain_assignCodes, by decide +kernel, by decide +kernel, by decide +kernel, chain_encode,
    by decide +kernel, by decide +kernel, by decide +kernel, by decide +kernel, by decide +kernel, chain_bytes⟩

/-! ### Frames and whole-machine rules -/

theorem witness_TableCommandsFrame :
    ∀ i ∈ [Instr.nop, .clear, .buildTree, .assignCodes], ∃ s t : State, exec i s = .next t ∧ i ≠ .encode ∧ i ≠ .decode := by
  intro i hi
  simp only [List.mem_cons, List.not_mem_nil, or_false] at hi
  rcases hi with rfl | rfl | rfl | rfl
  · exact ⟨idle, _, rfl, by decide, by decide⟩
  · exact ⟨idle, _, rfl, by decide, by decide⟩
  · exact ⟨abc, _, rfl, by decide, by decide⟩
  · exact ⟨treeAbc, _, rfl, by decide, by decide⟩

theorem witness_CodecCommandsFrame :
    (∃ s t : State, s.params.wellFormed = true ∧ exec .encode s = .next t ∧ t.err = false) ∧
      ∃ s t : State, s.params.wellFormed = true ∧ exec .decode s = .next t ∧ t.err = false :=
  ⟨⟨encodeXy 2, _, by decide, rfl, by decide⟩, decodeXy, nextOf (exec .decode decodeXy), by decide, rfl, by decide⟩

theorem witness_TreeChangesOnlyByItsCommands : ∃ s t : State, step s = .next t ∧ t.arena ≠ s.arena :=
  ⟨abc, nextOf (step abc), rfl, by decide⟩

theorem witness_SourceChangesOnlyByTheHost :
    ∃ (s t : State) (a : Nat), step s = .next t ∧ a < 0x20000 ∧ readByte t a ≠ readByte s a :=
  ⟨{ loadSrc [0x41] idle with inputs := [.write 0x10000 .w1 0x42] },
    nextOf (step { loadSrc [0x41] idle with inputs := [.write 0x10000 .w1 0x42] }), 0x10000, rfl, by decide, by decide⟩

theorem witness_ControlAndOverrunChange :
    (∃ s t : State, step s = .next t ∧ t.irqEn ≠ s.irqEn) ∧
      ∃ s t : State, step s = .next t ∧ s.overrun = false ∧ t.overrun = true :=
  ⟨⟨{ idle with inputs := [.write 0x00C .w4 1] }, nextOf (step { idle with inputs := [.write 0x00C .w4 1] }), rfl, by decide⟩,
    { State.reset with inputs := [.write 0x018 .w4 1] }, nextOf (step { State.reset with inputs := [.write 0x018 .w4 1] }),
    rfl, rfl, by decide⟩

end Sys2Proof.Tests
end

section
/-! PROOFS. Facts about the step, the decoder and the address map that the statements on the state need. -/

namespace Sys2Proof.Machine

/-! ## The step and the decoder -/

theorem step_read {s : State} {addr : BitVec 18} {n : Width} {rest : List Input} (hr : s.rstN = true)
    (hi : s.inputs = .read addr n :: rest) : step s = .next (hostRead addr n (afterEvent s)) := by
  simp [step, hi, hostTransaction, hr, afterEvent]

theorem step_write {s : State} {addr : BitVec 18} {n : Width} {v : Word} {rest : List Input} (hr : s.rstN = true)
    (hi : s.inputs = .write addr n v :: rest) : step s = .next (hostWrite addr n v (afterEvent s)) := by
  simp [step, hi, hostTransaction, hr, afterEvent]

/-- The opcode map of 30_encoding.md R82 gives each command its own opcode only. -/
theorem opcodeOf_of_instrOfOpcode {op : BitVec 4} {i : Instr} (h : instrOfOpcode op = .ok i) : op = opcodeOf i := by
  unfold instrOfOpcode at h
  split at h <;> cases h <;> exact BitVec.eq_of_toNat_eq ‹_›

/-- The word that decodes to a command is the command's own word (30_encoding.md R81). -/
theorem eq_encode_of_decodeWord {w : Word} {i : Instr} (h : decodeWord w = .ok i) : w = encode i := by
  unfold decodeWord at h
  split at h
  · cases h
  · next hz =>
    have hm : (mbzField w).toNat = 0 := by rw [not_not.1 hz]; rfl
    rw [encode, ← opcodeOf_of_instrOfOpcode h]
    apply BitVec.eq_of_toNat_eq
    have := w.isLt
    simp only [mbzField, opcodeField, BitVec.extractLsb'_toNat, BitVec.toNat_setWidth, Nat.shiftRight_eq_div_pow]
      at hm ⊢
    omega

/-! ## The address map -/

/-- The block offset of a register (20_memory.md R61). -/
def Reg.offset : Reg → Nat
  | .id => 0x000
  | .cmd => 0x004
  | .status => 0x008
  | .ctrl => 0x00C
  | .errInfo => 0x010
  | .errArg => 0x014
  | .ftLen => 0x018
  | .srcLen => 0x01C
  | .padIn => 0x020
  | .outLen => 0x024
  | .padOut => 0x028
  | .totalBits => 0x02C
  | .nodeCount => 0x030
  | .root => 0x034
  | .paramBufBytes => 0x038

theorem regAt_offset (r : Reg) : regAt r.offset = some r := by cases r <;> rfl

theorem eq_offset_of_regAt {a : Nat} {r : Reg} (h : regAt a = some r) : a = r.offset := by
  unfold regAt at h
  split at h <;> cases h <;> rfl

theorem Reg.offset_aligned (r : Reg) : r.offset % 4 = 0 := by cases r <;> rfl

theorem Reg.offset_le (r : Reg) : r.offset ≤ 0x38 := by cases r <;> decide

/-- An access reaches bytes of SRC, bytes of DST, or, with n = 4, a register or window word. -/
theorem target_cases {p : Params} {a : Nat} {n : Width} {g : Target} (h : target p a n = some g) :
    (g = .src a ∧ Config.srcBase ≤ a ∧ a + n.bytes ≤ Config.srcBase + p.bufBytes) ∨ g = .dst a ∨
      (n = .w4 ∧ wordTarget a = some g) := by
  unfold target at h
  split at h
  · cases h
  · split at h
    · next hsrc => exact .inl ⟨(Option.some.inj h).symm, hsrc⟩
    · split at h
      · exact .inr (.inl (Option.some.inj h).symm)
      · cases n with
        | w1 => cases h
        | w2 => cases h
        | w4 => exact .inr (.inr ⟨rfl, h⟩)

/-- The words of the map: an entry of FT, of CT, of ARENA, or a register at its own offset. -/
theorem wordTarget_cases {a : Nat} {g : Target} (h : wordTarget a = some g) :
    (∃ i, i < Config.ftEntries ∧ (g = .ftSym i ∨ g = .ftCnt i)) ∨ (∃ c, g = .ctCtrl c ∨ g = .ctBits c) ∨
      (∃ n word, g = .arena n word) ∨ ∃ r, g = .reg r ∧ a = r.offset := by
  unfold wordTarget at h
  split at h
  · next hft =>
    have hi : (a - 0x1000) / 8 < Config.ftEntries := by
      simp only [Config.ftEntries]
      omega
    refine .inl ⟨_, hi, ?_⟩
    split at h
    · exact .inl (Option.some.inj h).symm
    · exact .inr (Option.some.inj h).symm
  · split at h
    · split at h
      · exact .inr (.inl ⟨_, .inl (Option.some.inj h).symm⟩)
      · exact .inr (.inl ⟨_, .inr (Option.some.inj h).symm⟩)
    · split at h
      · exact .inr (.inr (.inl ⟨_, _, (Option.some.inj h).symm⟩))
      · split at h
        · next r hr => exact .inr (.inr (.inr ⟨r, (Option.some.inj h).symm, eq_offset_of_regAt hr⟩))
        · cases h

/-- A register is reached by 4-byte accesses at its offset only. -/
theorem eq_offset_of_target_reg {p : Params} {a : Nat} {n : Width} {r : Reg} (h : target p a n = some (.reg r)) :
    n = .w4 ∧ a = r.offset := by
  rcases target_cases h with ⟨e, -⟩ | e | ⟨hn, hw⟩
  · cases e
  · cases e
  · rcases wordTarget_cases hw with ⟨i, -, e | e⟩ | ⟨c, e | e⟩ | ⟨m, word, e⟩ | ⟨r', e, ha⟩ <;> cases e
    exact ⟨hn, ha⟩

/-- A word of FT that an access reaches is one of the 256 entries. -/
theorem ft_index_lt_of_target {p : Params} {a : Nat} {n : Width} {g : Target} {i : Nat}
    (hg : g = .ftSym i ∨ g = .ftCnt i) (h : target p a n = some g) : i < Config.ftEntries := by
  rcases target_cases h with ⟨rfl, -⟩ | rfl | ⟨-, hw⟩
  · simp at hg
  · simp at hg
  · rcases wordTarget_cases hw with ⟨j, hj, hft⟩ | ⟨c, rfl | rfl⟩ | ⟨m, word, rfl⟩ | ⟨r, rfl, -⟩
    · have hji : j = i := by rcases hft with rfl | rfl <;> simpa using hg
      exact hji ▸ hj
    all_goals simp at hg

/-- Below SRC, a 4-byte access at an aligned offset reaches what the map of words has there. -/
theorem target_word (p : Params) {a : Nat} (ha : a % 4 = 0) (hlt : a < Config.srcBase) :
    target p a .w4 = wordTarget a := by
  have hdst : ¬ Config.dstBase ≤ a := by
    simp only [Config.srcBase, Config.dstBase] at hlt ⊢
    omega
  simp [target, Width.bytes, ha, Nat.not_le.2 hlt, hdst]

theorem target_reg (p : Params) (r : Reg) : target p r.offset .w4 = some (.reg r) := by
  have hle := r.offset_le
  rw [target_word p r.offset_aligned (by simp only [Config.srcBase]; omega), wordTarget,
    if_neg (by omega), if_neg (by omega), if_neg (by omega), regAt_offset]

/-- CTRL is reached by 4-byte accesses at its offset only. -/
theorem addr_eq_ctrl {p : Params} {addr : BitVec 18} {n : Width} (h : target p addr.toNat n = some (.reg .ctrl)) :
    addr = 0x00C ∧ n = .w4 := by
  obtain ⟨hn, ha⟩ := eq_offset_of_target_reg h
  exact ⟨BitVec.eq_of_toNat_eq ha, hn⟩

/-- A write to a target that the block does not ignore is done. -/
theorem hostWrite_done {addr : BitVec 18} {n : Width} {s : State} {g : Target}
    (hg : target s.params addr.toNat n = some g) (hw : s.busy = false ∨ alwaysWritable g = true) (v : Word) :
    hostWrite addr n v s = { writeTarget n v s g with resp := .ok } := by
  unfold hostWrite
  rw [hg]
  rcases hw with hw | hw <;> simp [hw]

end Sys2Proof.Machine
end

section
/-! PROOFS. What each kind of step leaves unchanged: the registers of control (`Untouched`), the tree (`SameTree`), the bytes of
SRC. -/

namespace Sys2Proof.Machine

/-! ## Control -/

/-- The move of the sequencer leaves the state, ends INIT, or completes the command in progress. -/
theorem sequencerMove_completes {s t : State} (h : sequencerMove s = .next t) :
    (t = s ∧ (s.rstN = false ∨ s.seq = .idle)) ∨ (s.seq = .init ∧ t = endInit s) ∨
      ∃ w u, s.seq = .busy w ∧ Untouched s u ∧ (t = completeOk u ∨ ∃ r, t = completeErr r u) := by
  rcases sequencerMove_cases s t h with ⟨hr, e⟩ | ⟨-, hs, e⟩ | ⟨-, hs, e⟩ | ⟨-, w, i, hs, -, he⟩ | ⟨-, w, r, hs, -, e⟩
  · exact .inl ⟨e, .inl hr⟩
  · exact .inl ⟨e, .inr hs⟩
  · exact .inr (.inl ⟨hs, e⟩)
  · obtain ⟨u, hu, hc⟩ := exec_completes i s t he
    exact .inr (.inr ⟨w, u, hs, hu, hc⟩)
  · exact .inr (.inr ⟨w, s, hs, by constructor <;> rfl, .inr ⟨_, e⟩⟩)

/-- A write is an acceptance, a write to STATUS or to CTRL, or it leaves the registers of control. -/
theorem writeTarget_cases (n : Width) (v : Word) (s : State) (g : Target) :
    (g = .reg .cmd ∧ writeTarget n v s g = acceptCommand v s) ∨
      (g = .reg .status ∧ writeTarget n v s g = writeStatus v s) ∨
      (g = .reg .ctrl ∧ writeTarget n v s g = writeCtrl v s) ∨ Untouched s (writeTarget n v s g) := by
  cases g with
  | reg r =>
    cases r with
    | cmd => exact .inl ⟨rfl, rfl⟩
    | status => exact .inr (.inl ⟨rfl, rfl⟩)
    | ctrl => exact .inr (.inr (.inl ⟨rfl, rfl⟩))
    | _ => exact .inr (.inr (.inr (by constructor <;> rfl)))
  | _ => exact .inr (.inr (.inr (by constructor <;> rfl)))

/-- What a write does to the registers of control: it is a write to CTRL, it is ignored with OVERRUN, it is an acceptance or a
write to STATUS, or it leaves them. -/
theorem hostWrite_control (addr : BitVec 18) (n : Width) (v : Word) (s : State) :
    (addr = 0x00C ∧ n = .w4 ∧ hostWrite addr n v s = { writeCtrl v s with resp := .ok }) ∨
      (s.busy = true ∧ hostWrite addr n v s = { s with overrun := true, resp := .ok }) ∨
      (s.busy = false ∧ hostWrite addr n v s = { acceptCommand v s with resp := .ok }) ∨
      hostWrite addr n v s = { writeStatus v s with resp := .ok } ∨
      ∃ u r, Untouched s u ∧ hostWrite addr n v s = { u with resp := r } := by
  rcases hostWrite_cases addr n v s with ⟨-, e⟩ | ⟨g, -, hb, -, e⟩ | ⟨g, hg, hb, e⟩
  · exact .inr (.inr (.inr (.inr ⟨s, _, by constructor <;> rfl, e⟩)))
  · exact .inr (.inl ⟨hb, e⟩)
  · rcases writeTarget_cases n v s g with ⟨rfl, hw⟩ | ⟨-, hw⟩ | ⟨rfl, hw⟩ | hu
    · exact .inr (.inr (.inl ⟨hb.resolve_right (by simp [alwaysWritable]), hw ▸ e⟩))
    · exact .inr (.inr (.inr (.inl (hw ▸ e))))
    · obtain ⟨ha, hn⟩ := addr_eq_ctrl hg
      exact .inl ⟨ha, hn, hw ▸ e⟩
    · exact .inr (.inr (.inr (.inr ⟨_, _, hu, e⟩)))

/-- After a completion irq is IRQ_EN (10_state.md R45). -/
theorem completed_irq {u t : State} (ht : t = completeOk u ∨ ∃ r, t = completeErr r u) : t.irq = u.irqEn := by
  rcases ht with rfl | ⟨r, rfl⟩ <;> simp [State.irq]

/-- rst_n going low changes SEQ and, where a command was in progress, the DST bytes; every other register stays (log entry 9). -/
theorem resetLow_cases (s : State) :
    resetLow s = s ∨ resetLow s = { s with rstN := false, seq := .idle } ∨
      resetLow s = { unspecifyDst s with rstN := false, seq := .idle } := by
  unfold resetLow assertReset
  split
  · split
    · exact .inr (.inr rfl)
    · exact .inr (.inl rfl)
    · next hs => exact .inr (.inl (by rw [← hs]))
  · exact .inl rfl

theorem resetHigh_cases (s : State) : resetHigh s = s ∨ resetHigh s = enterInit s := by
  unfold resetHigh
  split
  · exact .inl rfl
  · exact .inr rfl

theorem Untouched.irq {s u : State} (h : Untouched s u) : u.irq = s.irq := by
  simp [State.irq, h.irqEn, h.done, h.err]

theorem Untouched.busy {s u : State} (h : Untouched s u) : u.busy = s.busy := by
  simp [State.busy, h.seq]

/-! ## The tree -/

/-- The same ARENA, NODE_COUNT, ROOT and TREE_VALID. -/
structure SameTree (s t : State) : Prop where
  arena : t.arena = s.arena
  nodeCount : t.nodeCount = s.nodeCount
  root : t.root = s.root
  treeValid : t.treeValid = s.treeValid

/-- Only BUILD_TREE and CLEAR write the tree (30_encoding.md R84). -/
theorem exec_sameTree {i : Instr} {s t : State} (h : exec i s = .next t) (hb : i ≠ .buildTree) (hc : i ≠ .clear) :
    SameTree s t := by
  cases i with
  | nop =>
    cases (exec_nop s).symm.trans h
    constructor <;> rfl
  | clear => exact absurd rfl hc
  | buildTree => exact absurd rfl hb
  | assignCodes =>
    rcases exec_assignCodes s with ⟨-, e⟩ | ⟨-, ct, -, e⟩ | ⟨-, c, -, e⟩ | ⟨-, -, e⟩ <;> cases e.symm.trans h <;>
      constructor <;> rfl
  | encode => rcases exec_encode s with ⟨r, -, e⟩ | ⟨b, -, e⟩ <;> cases e.symm.trans h <;> constructor <;> rfl
  | decode => rcases exec_decode s with ⟨r, -, e⟩ | ⟨b, -, e⟩ <;> cases e.symm.trans h <;> constructor <;> rfl

/-- No write reaches the tree (20_memory.md R67). -/
theorem writeTarget_sameTree (n : Width) (v : Word) (s : State) (g : Target) : SameTree s (writeTarget n v s g) := by
  cases g with
  | reg r => cases r <;> constructor <;> rfl
  | _ => constructor <;> rfl

theorem writeTarget_params (n : Width) (v : Word) (s : State) (g : Target) :
    (writeTarget n v s g).params = s.params := by
  cases g with
  | reg r => cases r <;> rfl
  | _ => rfl

theorem hostRead_sameTree (addr : BitVec 18) (n : Width) (s : State) :
    (hostRead addr n s).params = s.params ∧ SameTree s (hostRead addr n s) := by
  rcases hostRead_cases addr n s with ⟨-, e⟩ | ⟨g, -, -, e⟩ | ⟨g, -, -, e⟩ <;> rw [e] <;>
    exact ⟨rfl, by constructor <;> rfl⟩

theorem hostWrite_sameTree (addr : BitVec 18) (n : Width) (v : Word) (s : State) :
    (hostWrite addr n v s).params = s.params ∧ SameTree s (hostWrite addr n v s) := by
  rcases hostWrite_cases addr n v s with ⟨-, e⟩ | ⟨g, -, -, -, e⟩ | ⟨g, -, -, e⟩ <;> rw [e]
  · exact ⟨rfl, by constructor <;> rfl⟩
  · exact ⟨rfl, by constructor <;> rfl⟩
  · obtain ⟨ha, hn, hr, hv⟩ := writeTarget_sameTree n v s g
    exact ⟨writeTarget_params n v s g, ha, hn, hr, hv⟩

theorem resetLow_sameTree (s : State) : (resetLow s).params = s.params ∧ SameTree s (resetLow s) := by
  rcases resetLow_cases s with e | e | e <;> rw [e] <;> exact ⟨rfl, by constructor <;> rfl⟩

/-- The sequencer keeps BUF_BYTES, and the tree too unless it runs BUILD_TREE or CLEAR. -/
theorem sequencerMove_sameTree {s t : State} (h : sequencerMove s = .next t) :
    t.params = s.params ∧
      (SameTree s t ∨ s.seq = .busy (encode .buildTree) ∨ s.seq = .busy (encode .clear)) := by
  rcases sequencerMove_cases s t h with ⟨-, rfl⟩ | ⟨-, -, rfl⟩ | ⟨-, -, rfl⟩ | ⟨-, w, i, hs, hd, he⟩ | ⟨-, w, r, -, -, rfl⟩
  · exact ⟨rfl, .inl (by constructor <;> rfl)⟩
  · exact ⟨rfl, .inl (by constructor <;> rfl)⟩
  · exact ⟨rfl, .inl (by constructor <;> rfl)⟩
  · have hp : t.params = s.params := by
      obtain ⟨u, hu, rfl | ⟨r, rfl⟩⟩ := exec_completes i s t he <;> exact hu.params
    rw [eq_encode_of_decodeWord hd] at hs
    by_cases hb : i = .buildTree
    · exact ⟨hp, .inr (.inl (hb ▸ hs))⟩
    · by_cases hc : i = .clear
      · exact ⟨hp, .inr (.inr (hc ▸ hs))⟩
      · exact ⟨hp, .inl (exec_sameTree he hb hc)⟩
  · exact ⟨rfl, .inl (by constructor <;> rfl)⟩

/-! ## The bytes of SRC -/

/-- No command stores to a byte of SRC (20_memory.md R76). -/
theorem exec_readByte {i : Instr} {s t : State} (h : exec i s = .next t) {a : Nat} (ha : a < Config.dstBase) :
    readByte t a = readByte s a := by
  have dropped (r : Raise) : readByte (completeErr r (dropOutput s)) a = readByte s a :=
    (readByte_congr _ _ rfl rfl rfl a).trans (readByte_unspecifyDst _ a ha) |>.trans (readByte_congr s _ rfl rfl rfl a)
  have stored (b : List Byte) (p n : Nat) : readByte (completeOk (setOutput b p n s)) a = readByte s a := by
    have hw := readByte_writeBytes s Config.dstBase b a
    rw [dif_neg (by omega)] at hw
    exact (readByte_congr _ _ rfl rfl rfl a).trans hw
  cases i with
  | nop =>
    cases (exec_nop s).symm.trans h
    exact readByte_congr s _ rfl rfl rfl a
  | clear =>
    cases (exec_clear s).symm.trans h
    exact readByte_congr s _ rfl rfl rfl a
  | buildTree =>
    rcases exec_buildTree s with ⟨r, -, e⟩ | ⟨-, e⟩ <;> cases e.symm.trans h <;> exact readByte_congr s _ rfl rfl rfl a
  | assignCodes =>
    rcases exec_assignCodes s with ⟨-, e⟩ | ⟨-, ct, -, e⟩ | ⟨-, c, -, e⟩ | ⟨-, -, e⟩ <;> cases e.symm.trans h <;>
      exact readByte_congr s _ rfl rfl rfl a
  | encode =>
    rcases exec_encode s with ⟨r, -, e⟩ | ⟨b, -, e⟩ <;> cases e.symm.trans h
    · exact dropped r
    · exact stored _ _ _
  | decode =>
    rcases exec_decode s with ⟨r, -, e⟩ | ⟨b, -, e⟩ <;> cases e.symm.trans h
    · exact dropped r
    · exact stored _ _ _

theorem sequencerMove_readByte {s t : State} (h : sequencerMove s = .next t) {a : Nat} (ha : a < Config.dstBase) :
    readByte t a = readByte s a := by
  rcases sequencerMove_cases s t h with ⟨-, rfl⟩ | ⟨-, -, rfl⟩ | ⟨-, -, rfl⟩ | ⟨-, w, i, -, -, he⟩ | ⟨-, w, r, -, -, rfl⟩
  · rfl
  · rfl
  · exact readByte_congr s _ rfl rfl rfl a
  · exact exec_readByte he ha
  · exact readByte_congr s _ rfl rfl rfl a

theorem hostRead_readByte (addr : BitVec 18) (n : Width) (s : State) (a : Nat) :
    readByte (hostRead addr n s) a = readByte s a := by
  rcases hostRead_cases addr n s with ⟨-, e⟩ | ⟨g, -, -, e⟩ | ⟨g, -, -, e⟩ <;> rw [e] <;>
    exact readByte_congr s _ rfl rfl rfl a

/-- A write that is done stores bytes only where it reaches SRC. -/
theorem writeTarget_readByte (n : Width) (v : Word) (s : State) (g : Target) (a : Nat)
    (h : readByte (writeTarget n v s g) a ≠ readByte s a) : ∃ x, g = .src x ∧ x ≤ a ∧ a < x + n.bytes := by
  cases g with
  | src x =>
    refine ⟨x, rfl, ?_⟩
    by_contra hx
    refine h ?_
    rw [writeTarget, readByte_writeBytes, dif_neg (by rw [storedBytes_length]; omega)]
  | reg r => exact absurd (by cases r <;> exact readByte_congr s _ rfl rfl rfl a) h
  | _ => exact absurd (readByte_congr s _ rfl rfl rfl a) h

theorem hostWrite_readByte {addr : BitVec 18} {n : Width} {v : Word} {s : State} {a : Nat}
    (h : readByte (hostWrite addr n v s) a ≠ readByte s a) :
    s.busy = false ∧ addr.toNat ≤ a ∧ a < addr.toNat + n.bytes := by
  rcases hostWrite_cases addr n v s with ⟨-, e⟩ | ⟨g, -, -, -, e⟩ | ⟨g, hg, hw, e⟩ <;> rw [e] at h
  · exact absurd (readByte_congr s _ rfl rfl rfl a) h
  · exact absurd (readByte_congr s _ rfl rfl rfl a) h
  · have h : readByte (writeTarget n v s g) a ≠ readByte s a := fun he => h ((readByte_congr _ _ rfl rfl rfl a).trans he)
    obtain ⟨x, rfl, hx⟩ := writeTarget_readByte n v s g a h
    obtain ⟨rfl, -⟩ := target_src _ _ _ _ hg
    exact ⟨hw.resolve_right (by simp [alwaysWritable]), hx⟩

theorem resetLow_readByte (s : State) {a : Nat} (ha : a < Config.dstBase) : readByte (resetLow s) a = readByte s a := by
  rcases resetLow_cases s with e | e | e <;> rw [e]
  · exact readByte_congr s _ rfl rfl rfl a
  · exact (readByte_congr (unspecifyDst s) _ rfl rfl rfl a).trans (readByte_unspecifyDst s a ha)

end Sys2Proof.Machine
end

section
/-! PROOFS. The whole-machine rules of the family "state": which step changes the tree, SRC, CTRL, OVERRUN and irq. -/

namespace Sys2Proof.Machine

/-- Settles O3: the step is the sequencer's, and the accepted word is the command's. -/
theorem stepRunsTheAcceptedCommand : Obligations.StepRunsTheAcceptedCommand := by
  intro s w i hr hs hn hd
  rw [step_sequencer s hn, sequencerMove, afterEvent_rstN, hr, if_pos rfl, afterEvent_seq, hs]
  simp only [runCommand_eq, hd]

/-- Settles O9: a write to STATUS is done in every sequencer state. -/
theorem statusWriteClearsWrittenOnes : Obligations.StatusWriteClearsWrittenOnes := by
  intro s v rest hr hi
  have hw : hostWrite 0x008 .w4 v (afterEvent s) = { writeStatus v (afterEvent s) with resp := .ok } :=
    hostWrite_done (g := .reg .status) (target_reg s.params .status) (.inr rfl) v
  have cleared (b w : Bool) : (b && !w) = if w then false else b := by cases w <;> simp
  refine ⟨_, (step_write hr hi).trans (congrArg _ hw), ?_, cleared _ _, cleared _ _, cleared _ _⟩
  simp [writeStatus, afterEvent, hi]

/-- Settles O52, by the kind of the step. -/
theorem treeChangesOnlyByItsCommands : Obligations.TreeChangesOnlyByItsCommands := by
  intro s t h
  have same {u : State} (hu : SameTree (afterEvent s) u) :
      ¬ (u.arena ≠ s.arena ∨ u.nodeCount ≠ s.nodeCount ∨ u.root ≠ s.root ∨ u.treeValid ≠ s.treeValid) := by
    simp [hu.arena, hu.nodeCount, hu.root, hu.treeValid]
  rcases step_cases s t h with ⟨hn, hm⟩ | ⟨addr, n, rest, -, -, rfl⟩ | ⟨addr, n, v, rest, -, -, rfl⟩ |
      ⟨rest, -, rfl⟩ | ⟨rest, hi, rfl⟩
  · obtain ⟨hp, hu | hs⟩ := sequencerMove_sameTree hm
    · exact ⟨hp, fun hc => absurd hc (same hu)⟩
    · exact ⟨hp, fun _ => .inr ⟨hn, hs⟩⟩
  · obtain ⟨hp, hu⟩ := hostRead_sameTree addr n (afterEvent s)
    exact ⟨hp, fun hc => absurd hc (same hu)⟩
  · obtain ⟨hp, hu⟩ := hostWrite_sameTree addr n v (afterEvent s)
    exact ⟨hp, fun hc => absurd hc (same hu)⟩
  · obtain ⟨hp, hu⟩ := resetLow_sameTree (afterEvent s)
    exact ⟨hp, fun hc => absurd hc (same hu)⟩
  · exact ⟨by rcases resetHigh_cases (afterEvent s) with e | e <;> rw [e] <;> rfl, fun _ => .inl ⟨rest, hi⟩⟩

/-- Settles O53, by the kind of the step. -/
theorem sourceChangesOnlyByTheHost : Obligations.SourceChangesOnlyByTheHost := by
  intro s t a h ha hne
  have hne : readByte t a ≠ readByte (afterEvent s) a := by rwa [readByte_congr s (afterEvent s) rfl rfl rfl]
  rcases step_cases s t h with ⟨-, hm⟩ | ⟨addr, n, rest, -, -, rfl⟩ | ⟨addr, n, v, rest, hi, -, rfl⟩ |
      ⟨rest, -, rfl⟩ | ⟨rest, hi, -⟩
  · exact absurd (sequencerMove_readByte hm ha) hne
  · exact absurd (hostRead_readByte addr n _ a) hne
  · obtain ⟨hb, hx⟩ := hostWrite_readByte hne
    exact .inr ⟨addr, n, v, rest, hi, hb, hx⟩
  · exact absurd (resetLow_readByte _ ha) hne
  · exact .inl ⟨rest, hi⟩

/-- Settles O54, by the kind of the step. -/
theorem controlAndOverrunChange : Obligations.ControlAndOverrunChange := by
  intro s t h
  have kept {u : State} (he : u.irqEn = s.irqEn) (ho : u.overrun = true → s.overrun = true) {P Q : Prop} :
      (u.irqEn ≠ s.irqEn → P) ∧ (s.overrun = false → u.overrun = true → Q) :=
    ⟨fun hc => absurd he hc, fun h0 h1 => by simp [ho h1] at h0⟩
  rcases step_cases s t h with ⟨-, hm⟩ | ⟨addr, n, rest, -, -, rfl⟩ | ⟨addr, n, v, rest, hi, -, rfl⟩ |
      ⟨rest, -, rfl⟩ | ⟨rest, hi, rfl⟩
  · rcases sequencerMove_completes hm with ⟨rfl, -⟩ | ⟨-, rfl⟩ | ⟨w, u, -, hu, rfl | ⟨r, rfl⟩⟩
    · exact kept rfl id
    · exact kept rfl id
    · exact kept hu.irqEn (hu.overrun ▸ id)
    · exact kept hu.irqEn (hu.overrun ▸ id)
  · rcases hostRead_cases addr n (afterEvent s) with ⟨-, e⟩ | ⟨g, -, -, e⟩ | ⟨g, -, -, e⟩ <;> rw [e] <;>
      exact kept rfl id
  · rcases hostWrite_control addr n v (afterEvent s) with ⟨rfl, rfl, e⟩ | ⟨hb, e⟩ | ⟨-, e⟩ | e | ⟨u, r, hu, e⟩ <;> rw [e]
    · exact ⟨fun _ => .inr ⟨v, rest, hi⟩, fun h0 h1 => absurd (h0.symm.trans h1) Bool.false_ne_true⟩
    · exact ⟨fun hc => absurd rfl hc, fun _ _ => ⟨hb, addr, n, v, rest, hi⟩⟩
    · exact kept rfl id
    · exact ⟨fun hc => absurd rfl hc, fun h0 h1 => absurd (h0.symm.trans (Bool.and_eq_true_iff.1 h1).1) Bool.false_ne_true⟩
    · exact kept hu.irqEn (hu.overrun ▸ id)
  · rcases resetLow_cases (afterEvent s) with e | e | e <;> rw [e] <;> exact kept rfl id
  · refine ⟨fun _ => .inl ⟨rest, hi⟩, fun h0 h1 => ?_⟩
    rcases resetHigh_cases (afterEvent s) with e | e <;> rw [e] at h1
    · exact absurd (h0.symm.trans h1) Bool.false_ne_true
    · cases h1

/-- What a step does to irq and SEQ: it completes a command, it writes CTRL, it leaves irq at 0, or it does not raise irq and
accepts no command. -/
theorem step_irq_cases {s t : State} (h : step s = .next t) :
    (SequencerNext s ∧ (∃ w, s.seq = .busy w) ∧ t.seq = .idle ∧ t.irq = s.irqEn) ∨
      (∃ v rest, s.inputs = .write 0x00C .w4 v :: rest ∧ t.irqEn = v.getLsbD 0 ∧ t.seq = s.seq) ∨ t.irq = false ∨
      ((t.irq = true → s.irq = true) ∧ (t.seq = s.seq ∨ t.seq = .idle)) := by
  rcases step_cases s t h with ⟨hn, hm⟩ | ⟨addr, n, rest, -, -, rfl⟩ | ⟨addr, n, v, rest, hi, -, rfl⟩ |
      ⟨rest, -, rfl⟩ | ⟨rest, -, rfl⟩
  · rcases sequencerMove_completes hm with ⟨rfl, -⟩ | ⟨-, rfl⟩ | ⟨w, u, hs, hu, ht⟩
    · exact .inr (.inr (.inr ⟨id, .inl rfl⟩))
    · exact .inr (.inr (.inr ⟨id, .inr rfl⟩))
    · exact .inl ⟨hn, ⟨w, hs⟩, by rcases ht with rfl | ⟨r, rfl⟩ <;> rfl, (completed_irq ht).trans hu.irqEn⟩
  · rcases hostRead_cases addr n (afterEvent s) with ⟨-, e⟩ | ⟨g, -, -, e⟩ | ⟨g, -, -, e⟩ <;> rw [e] <;>
      exact .inr (.inr (.inr ⟨id, .inl rfl⟩))
  · rcases hostWrite_control addr n v (afterEvent s) with ⟨rfl, rfl, e⟩ | ⟨-, e⟩ | ⟨-, e⟩ | e | ⟨u, r, hu, e⟩ <;> rw [e]
    · exact .inr (.inl ⟨v, rest, hi, rfl, rfl⟩)
    · exact .inr (.inr (.inr ⟨id, .inl rfl⟩))
    · exact .inr (.inr (.inl (by simp [State.irq])))
    · refine .inr (.inr (.inr ⟨fun h1 => ?_, .inl rfl⟩))
      simp only [State.irq, writeStatus, Bool.and_eq_true, Bool.or_eq_true] at h1 ⊢
      exact ⟨h1.1, h1.2.imp And.left And.left⟩
    · exact .inr (.inr (.inr ⟨(hu.irq ▸ id : u.irq = true → _), .inl hu.seq⟩))
  · rcases resetLow_cases (afterEvent s) with e | e | e <;> rw [e]
    · exact .inr (.inr (.inr ⟨id, .inl rfl⟩))
    · exact .inr (.inr (.inr ⟨id, .inr rfl⟩))
    · exact .inr (.inr (.inr ⟨id, .inr rfl⟩))
  · rcases resetHigh_cases (afterEvent s) with e | e <;> rw [e]
    · exact .inr (.inr (.inr ⟨id, .inl rfl⟩))
    · exact .inr (.inr (.inl rfl))

/-- Settles O17, by what a step does to irq and SEQ. -/
theorem interruptRisesAtCompletion : Obligations.InterruptRisesAtCompletion := by
  intro s t h
  refine ⟨fun h0 h1 => ?_, fun w hw hs => ?_, fun w hr hs hn => ?_⟩
  · rcases step_irq_cases h with ⟨hn, hb, -, -⟩ | ⟨v, rest, hi, he, -⟩ | he | ⟨hu, -⟩
    · exact .inl ⟨hn, hb⟩
    · exact .inr ⟨v, rest, hi, he ▸ (Bool.and_eq_true_iff.1 h1).1⟩
    · exact absurd (he.symm.trans h1) Bool.false_ne_true
    · exact absurd (h0.symm.trans (hu h1)) Bool.false_ne_true
  · rcases step_irq_cases h with ⟨-, -, he, -⟩ | ⟨v, rest, -, -, he⟩ | he | ⟨-, he | he⟩
    · cases hw.symm.trans he
    · cases (hw.symm.trans he).trans hs
    · exact he
    · cases (hw.symm.trans he).trans hs
    · cases hw.symm.trans he
  · rw [step_sequencer s hn] at h
    rcases sequencerMove_completes h with ⟨-, e⟩ | ⟨e, -⟩ | ⟨-, u, -, hu, ht⟩
    · simp [hr, hs] at e
    · simp [hs] at e
    · exact (completed_irq ht).trans hu.irqEn

end Sys2Proof.Machine
end

section
/-! PROOFS. What the commands give when their checks pass: a valid table, a canonical CodeTable, outputs that fit DST. -/

namespace Sys2Proof.Machine

/-- The checks of BUILD_TREE pass only on positive counts and on symbols that are new and pairwise distinct. -/
theorem entries_of_checkEntries {seen : List Byte} {i : Nat} {es : List FtEntry}
    (h : checkEntries seen i es = .ok ()) :
    (∀ e ∈ es, e.cnt ≠ 0) ∧ (∀ e ∈ es, e.sym ∉ seen) ∧ (es.map FtEntry.sym).Nodup := by
  induction es generalizing seen i with
  | nil => simp
  | cons e es ih =>
    unfold checkEntries at h
    split at h
    · cases h
    · next hcnt =>
      split at h
      · cases h
      · next hsym =>
        obtain ⟨hpos, hnew, hdist⟩ := ih h
        refine ⟨List.forall_mem_cons.2 ⟨hcnt, hpos⟩, List.forall_mem_cons.2 ⟨hsym, fun x hx hs => ?_⟩, ?_⟩
        · exact hnew x hx (List.mem_cons_of_mem _ hs)
        · rw [List.map_cons, List.nodup_cons]
          refine ⟨fun hm => ?_, hdist⟩
          obtain ⟨x, hx, hxe⟩ := List.mem_map.1 hm
          exact hnew x hx (hxe ▸ List.mem_cons_self)

/-- The checks of BUILD_TREE pass only on a valid table (40_tree_builder.md R102). -/
theorem validTable_of_checkTable {s : State} (h : checkTable s = .ok ()) :
    ValidTable (ftEntries s.ft s.ftLen.toNat) := by
  unfold checkTable at h
  split at h
  · cases h
  · next hmax =>
    split at h
    · cases h
    · next hmin =>
      obtain ⟨hpos, -, hdist⟩ := entries_of_checkEntries h
      refine ⟨fun e => hmin ?_, by simpa using hmax, hpos, hdist⟩
      simpa using congrArg List.length e

/-- The walk of the arena keeps the CodeTable canonical. -/
theorem canonicalTable_visit {arena : List Node} {fuel n acc depth : Nat} {ct ct' : List (Nat × CtEntry)}
    (hct : CanonicalTable ct) (h : visit arena fuel n acc depth ct = .ok ct') : CanonicalTable ct' := by
  induction fuel generalizing n acc depth ct ct' with
  | zero => cases h
  | succ fuel ih =>
    unfold visit at h
    split at h
    · cases h
    · split at h
      · cases h
      · cases h
        exact canonicalTable_ctSet _ _ _ hct
    · split at h
      · cases h
      · next hleft => exact ih (ih hct hleft) h

theorem canonicalTable_nil : CanonicalTable [] := rfl

/-- ASSIGN_CODES writes a canonical CodeTable. -/
theorem canonicalTable_assignedTable {arena : List Node} {root : BitVec 9} {ct : List (Nat × CtEntry)}
    (h : assignedTable arena root = .ok ct) : CanonicalTable ct := by
  unfold assignedTable at h
  split at h
  · cases h
    exact canonicalTable_ctSet _ _ _ canonicalTable_nil
  · exact canonicalTable_visit canonicalTable_nil h

/-- The bits that ENCODE packs fit the buffer, together with the `t` bits before them. -/
theorem packLoop_fits {ct : List (Nat × CtEntry)} {bufBytes i t : Nat} {bytes : List Byte} {b : List Bool}
    (ht : ceilDiv8 t ≤ bufBytes) (h : packLoop ct bufBytes i t bytes = .ok b) : ceilDiv8 (t + b.length) ≤ bufBytes := by
  induction bytes generalizing i t b with
  | nil =>
    cases h
    exact ht
  | cons c cs ih =>
    unfold packLoop at h
    dsimp only at h
    split at h
    · split at h
      · cases h
      · next hfit =>
        split at h
        · next rest hrest =>
          cases h
          rw [List.length_append, codeBits_length, ← Nat.add_assoc]
          exact ih (Nat.not_lt.1 hfit) hrest
        · cases h
    · cases h

theorem encodedBits_fits {s : State} {b : List Bool} (h : encodedBits s = .ok b) :
    ceilDiv8 b.length ≤ s.params.bufBytes := by
  unfold encodedBits at h
  split at h
  · cases h
  · split at h
    · cases h
    · split at h
      · cases h
      · simpa using packLoop_fits (Nat.zero_le _ : ceilDiv8 0 ≤ _) h

/-- The symbols that DECODE emits fit the buffer, together with the `out` symbols before them. -/
theorem walkTrie_fits {trie cur : Trie} {bufBytes t out : Nat} {start : Option Nat} {bits : List Bool}
    {bytes : List Byte} (hout : out ≤ bufBytes) (h : walkTrie trie bufBytes t out cur start bits = .ok bytes) :
    out + bytes.length ≤ bufBytes := by
  induction bits generalizing t out cur start bytes with
  | nil =>
    unfold walkTrie at h
    split at h
    · cases h
      exact hout
    · cases h
  | cons b bs ih =>
    unfold walkTrie at h
    split at h
    · cases h
    · split at h
      · cases h
      · next hfull =>
        split at h
        · next rest hrest =>
          cases h
          have := ih (by omega) hrest
          rw [List.length_cons]
          omega
        · cases h
    · exact ih hout h

/-- DECODE passes its checks only with SRC_LEN and its output inside the buffers. -/
theorem decodedBytes_fits {s : State} {bytes : List Byte} (h : decodedBytes s = .ok bytes) :
    s.srcLen.toNat ≤ s.params.bufBytes ∧ bytes.length ≤ s.params.bufBytes := by
  unfold decodedBytes at h
  split at h
  · cases h
  · next hlen =>
    refine ⟨Nat.not_lt.1 hlen, ?_⟩
    split at h
    · cases h
    · split at h
      · cases h
      · simpa using walkTrie_fits (Nat.zero_le _) h

theorem nbits_le (s : State) : nbits s ≤ 8 * s.srcLen.toNat := by
  unfold nbits
  split <;> omega

end Sys2Proof.Machine
end

section
/-! PROOFS. The invariant in two parts, what the memories hold and what the registers of control hold, and that every step keeps
each. -/

namespace Sys2Proof.Machine

/-- The part of the invariant about the parameter, the memories, the tree and the length registers. -/
structure State.DataInv (s : State) : Prop where
  params : s.params.wellFormed = true
  memory : Memory.wf s.mem = true
  buffers : Memory.inBuffers s.params s.mem = true
  frequencyTable : Sparse.wfOr ⟨0, 0⟩ Config.ftEntries s.ft = true
  codeTable : CanonicalTable s.ct
  tree : s.treeValid = true → ∃ es, ValidTable es ∧ s.arena = (buildArena es).2 ∧
    s.root = BitVec.ofNat 9 (buildArena es).1 ∧ s.nodeCount = BitVec.ofNat 9 (buildArena es).2.length
  noTree : s.treeValid = false → s.arena = [] ∧ s.nodeCount = 0 ∧ s.root = 0
  outLen : s.outLen.toNat ≤ s.params.bufBytes
  totalBits : s.totalBits.toNat ≤ 8 * s.params.bufBytes
  drawsTaken : s.srcDraw < s.draws ∧ s.dstDraw < s.draws

/-- The part of the invariant about the sequencer and the registers that report a completion. -/
structure State.ControlInv (s : State) : Prop where
  doneErr : ¬ (s.done = true ∧ s.err = true)
  errInfo : s.errInfo = noError ∨ ∃ c : Cause, s.errInfo = c.errInfo s.errInfo.op
  errArg : s.errInfo = noError → s.errArg = 0
  errCause : s.err = true → s.errInfo ≠ noError
  doneNoCause : s.done = true → s.errInfo = noError
  busyClean : s.busy = true → s.done = false ∧ s.err = false ∧ s.errInfo = noError ∧ s.errArg = 0
  currentOp : ∀ w, s.seq = .busy w → s.curOp = opcodeField w
  inReset : s.rstN = false → s.seq = .idle

theorem inv_iff (s : State) : s.Inv ↔ s.DataInv ∧ s.ControlInv := by
  constructor
  · intro h
    refine ⟨{ h with tree := fun hv => ?_ }, { h with }⟩
    obtain ⟨es, ht⟩ := h.tree hv
    exact ⟨es, ht.table, ht.arena, ht.root, ht.nodeCount⟩
  · rintro ⟨hd, hc⟩
    refine { hd, hc with tree := fun hv => ?_ }
    obtain ⟨es, htable, harena, hroot, hcount⟩ := hd.tree hv
    exact ⟨es, htable, harena, hroot, hcount⟩

/-! ## The data -/

namespace State.DataInv

variable {s : State}

theorem dropTree (h : s.DataInv) : (dropTree s).DataInv :=
  { h with tree := fun hv => absurd hv Bool.false_ne_true, noTree := fun _ => ⟨rfl, rfl, rfl⟩ }

/-- The tree of a valid table. -/
theorem setTree (h : s.DataInv) {es : List FtEntry} (hes : ValidTable es) :
    (setTree (buildArena es).2 (BitVec.ofNat 9 (buildArena es).1) s).DataInv :=
  { h with tree := fun _ => ⟨es, hes, rfl, rfl, rfl⟩, noTree := fun hv => absurd hv.symm Bool.false_ne_true }

theorem setCodeTable (h : s.DataInv) {ct : List (Nat × CtEntry)} (hct : CanonicalTable ct) :
    (setCodeTable ct s).DataInv :=
  { h with codeTable := hct }

theorem clearCodec (h : s.DataInv) : (clearCodec s).DataInv :=
  { h with
    frequencyTable := rfl
    codeTable := canonicalTable_nil
    tree := fun hv => absurd hv Bool.false_ne_true
    noTree := fun _ => ⟨rfl, rfl, rfl⟩
    outLen := Nat.zero_le _
    totalBits := Nat.zero_le _ }

theorem unspecifyDst (h : s.DataInv) : (unspecifyDst s).DataInv :=
  { h with
    memory := Memory.wf_dropDst _ h.memory
    buffers := Memory.inBuffers_dropDst _ _ h.buffers
    drawsTaken := ⟨Nat.lt_succ_of_lt h.drawsTaken.1, Nat.lt_succ_self _⟩ }

theorem dropOutput (h : s.DataInv) : (dropOutput s).DataInv :=
  { h.unspecifyDst with outLen := Nat.zero_le _, totalBits := Nat.zero_le _ }

/-- Bytes that fit DST, and a number of bits that the buffer can hold. -/
theorem setOutput (h : s.DataInv) {bytes : List Byte} {bits : Nat} (hbytes : bytes.length ≤ s.params.bufBytes)
    (hbits : bits ≤ 8 * s.params.bufBytes) (pad : Nat) : (setOutput bytes pad bits s).DataInv :=
  { h with
    memory := Memory.wf_writeBytes _ _ _ h.memory
    buffers := Memory.inBuffers_writeBytes _ _ _ _ h.buffers (.inr ⟨le_rfl, Nat.add_le_add_left hbytes _⟩)
    outLen := (Nat.mod_le _ _).trans hbytes
    totalBits := (Nat.mod_le _ _).trans hbits }

theorem enterInit (h : s.DataInv) : (enterInit s).DataInv where
  params := h.params
  memory := rfl
  buffers := rfl
  frequencyTable := rfl
  codeTable := canonicalTable_nil
  tree := fun hv => absurd hv Bool.false_ne_true
  noTree := fun _ => ⟨rfl, rfl, rfl⟩
  outLen := Nat.zero_le _
  totalBits := Nat.zero_le _
  drawsTaken := ⟨Nat.lt_add_of_pos_right Nat.two_pos, Nat.lt_succ_self _⟩

theorem completeOk (h : s.DataInv) : (completeOk s).DataInv := { h with }

theorem completeErr (h : s.DataInv) (r : Raise) : (completeErr r s).DataInv := { h with }

/-- Every command keeps the data part of the invariant. -/
theorem exec (h : s.DataInv) {i : Instr} {t : State} (he : exec i s = .next t) : t.DataInv := by
  cases i with
  | nop =>
    cases (exec_nop s).symm.trans he
    exact h.completeOk
  | clear =>
    cases (exec_clear s).symm.trans he
    exact h.clearCodec.completeOk
  | buildTree =>
    rcases exec_buildTree s with ⟨r, -, e⟩ | ⟨hc, e⟩ <;> cases e.symm.trans he
    · exact h.dropTree.completeErr r
    · exact (h.setTree (validTable_of_checkTable hc)).completeOk
  | assignCodes =>
    rcases exec_assignCodes s with ⟨-, e⟩ | ⟨-, ct, hct, e⟩ | ⟨-, c, -, e⟩ | ⟨-, -, e⟩ <;> cases e.symm.trans he
    · exact h.completeErr _
    · exact (h.setCodeTable (canonicalTable_assignedTable hct)).completeOk
    · exact (h.setCodeTable canonicalTable_nil).completeErr _
  | encode =>
    rcases exec_encode s with ⟨r, -, e⟩ | ⟨b, hb, e⟩ <;> cases e.symm.trans he
    · exact h.dropOutput.completeErr r
    · have hfit := encodedBits_fits hb
      have hbits : b.length ≤ 8 * s.params.bufBytes := by
        unfold ceilDiv8 at hfit
        omega
      exact (h.setOutput ((packBits_length b).trans_le hfit) hbits _).completeOk
  | decode =>
    rcases exec_decode s with ⟨r, -, e⟩ | ⟨b, hb, e⟩ <;> cases e.symm.trans he
    · exact h.dropOutput.completeErr r
    · obtain ⟨hlen, hfit⟩ := decodedBytes_fits hb
      exact (h.setOutput hfit ((nbits_le s).trans (Nat.mul_le_mul_left 8 hlen)) 0).completeOk

theorem sequencerMove (h : s.DataInv) {t : State} (hm : sequencerMove s = .next t) : t.DataInv := by
  rcases sequencerMove_cases s t hm with ⟨-, rfl⟩ | ⟨-, -, rfl⟩ | ⟨-, -, rfl⟩ | ⟨-, w, i, -, -, he⟩ | ⟨-, w, r, -, -, rfl⟩
  · exact h
  · exact h
  · exact { h with }
  · exact h.exec he
  · exact h.completeErr _

theorem hostRead (h : s.DataInv) (addr : BitVec 18) (n : Width) : (hostRead addr n s).DataInv := by
  rcases hostRead_cases addr n s with ⟨-, e⟩ | ⟨g, -, -, e⟩ | ⟨g, -, -, e⟩ <;> rw [e]
  · exact { h with }
  · exact { h with drawsTaken := h.drawsTaken.imp Nat.lt_succ_of_lt Nat.lt_succ_of_lt }
  · exact { h with }

/-- A write that the block does not ignore. -/
theorem writeTarget (h : s.DataInv) {a : Nat} {n : Width} {g : Target} (hg : target s.params a n = some g) (v : Word) :
    (writeTarget n v s g).DataInv := by
  cases g with
  | reg r => cases r <;> exact { h with }
  | ftSym i =>
    exact { h with frequencyTable := Sparse.wfOr_storeOr _ _ _ _ _ h.frequencyTable (ft_index_lt_of_target (.inl rfl) hg) }
  | ftCnt i =>
    exact { h with frequencyTable := Sparse.wfOr_storeOr _ _ _ _ _ h.frequencyTable (ft_index_lt_of_target (.inr rfl) hg) }
  | ctCtrl c => exact { h with codeTable := canonicalTable_ctSet _ _ _ h.codeTable }
  | ctBits c => exact { h with codeTable := canonicalTable_ctSet _ _ _ h.codeTable }
  | arena m word => exact h
  | src x =>
    obtain ⟨rfl, hrange⟩ := target_src _ _ _ _ hg
    exact { h with
      memory := Memory.wf_writeBytes _ _ _ h.memory
      buffers := Memory.inBuffers_writeBytes _ _ _ _ h.buffers (.inl (by rwa [storedBytes_length])) }
  | dst x => exact h

theorem hostWrite (h : s.DataInv) (addr : BitVec 18) (n : Width) (v : Word) : (hostWrite addr n v s).DataInv := by
  rcases hostWrite_cases addr n v s with ⟨-, e⟩ | ⟨g, -, -, -, e⟩ | ⟨g, hg, -, e⟩ <;> rw [e]
  · exact { h with }
  · exact { h with }
  · exact { h.writeTarget hg v with }

theorem resetLow (h : s.DataInv) : (resetLow s).DataInv := by
  rcases resetLow_cases s with e | e | e <;> rw [e]
  · exact h
  · exact { h with }
  · exact { h.unspecifyDst with }

theorem resetHigh (h : s.DataInv) : (resetHigh s).DataInv := by
  rcases resetHigh_cases s with e | e <;> rw [e]
  · exact h
  · exact h.enterInit

/-- Every step keeps the data part of the invariant. -/
theorem step (h : s.DataInv) {t : State} (hs : step s = .next t) : t.DataInv := by
  have h' : (afterEvent s).DataInv := { h with }
  rcases step_cases s t hs with ⟨-, hm⟩ | ⟨addr, n, rest, -, -, rfl⟩ | ⟨addr, n, v, rest, -, -, rfl⟩ |
      ⟨rest, -, rfl⟩ | ⟨rest, -, rfl⟩
  · exact h'.sequencerMove hm
  · exact h'.hostRead addr n
  · exact h'.hostWrite addr n v
  · exact h'.resetLow
  · exact h'.resetHigh

end State.DataInv

/-! ## Control -/

/-- Every error has a kind, so ERR_INFO of an error is not 0 (60_exceptions.md R210). -/
theorem Cause.errInfo_ne_noError (c : Cause) (op : BitVec 4) : c.errInfo op ≠ noError := by
  intro h
  have hk : c.kind.code = 0 := congrArg ErrInfo.kind h
  revert hk
  cases c <;> decide

namespace State.ControlInv

variable {s : State}

theorem of_untouched (h : s.ControlInv) {u : State} (hu : Untouched s u) : u.ControlInv where
  doneErr := by rw [hu.done, hu.err]; exact h.doneErr
  errInfo := by rw [hu.errInfo]; exact h.errInfo
  errArg := by rw [hu.errInfo, hu.errArg]; exact h.errArg
  errCause := by rw [hu.err, hu.errInfo]; exact h.errCause
  doneNoCause := by rw [hu.done, hu.errInfo]; exact h.doneNoCause
  busyClean := by rw [hu.busy, hu.done, hu.err, hu.errInfo, hu.errArg]; exact h.busyClean
  currentOp := by rw [hu.seq, hu.curOp]; exact h.currentOp
  inReset := by rw [hu.rstN, hu.seq]; exact h.inReset

/-- `complete()` from a command in progress (60_exceptions.md R217). -/
theorem completeOk (h : s.ControlInv) (hb : s.busy = true) : (completeOk s).ControlInv := by
  obtain ⟨-, herr, hinfo, harg⟩ := h.busyClean hb
  exact {
    doneErr := fun hc => absurd (herr.symm.trans hc.2) Bool.false_ne_true
    errInfo := .inl hinfo
    errArg := fun _ => harg
    errCause := fun hc => absurd (herr.symm.trans hc) Bool.false_ne_true
    doneNoCause := fun _ => hinfo
    busyClean := fun hc => absurd hc Bool.false_ne_true
    currentOp := fun w hw => by cases hw
    inReset := fun _ => rfl }

/-- `raise` from a command in progress (60_exceptions.md R214). -/
theorem completeErr (h : s.ControlInv) (hb : s.busy = true) (r : Raise) : (completeErr r s).ControlInv := by
  obtain ⟨hdone, -, -, -⟩ := h.busyClean hb
  exact {
    doneErr := fun hc => absurd (hdone.symm.trans hc.1) Bool.false_ne_true
    errInfo := .inr ⟨r.cause, rfl⟩
    errArg := fun hc => absurd hc (r.cause.errInfo_ne_noError _)
    errCause := fun _ => r.cause.errInfo_ne_noError _
    doneNoCause := fun hc => absurd (hdone.symm.trans hc) Bool.false_ne_true
    busyClean := fun hc => absurd hc Bool.false_ne_true
    currentOp := fun w hw => by cases hw
    inReset := fun _ => rfl }

/-- An acceptance clears the report (60_exceptions.md R218) and sets CUR_OP. -/
theorem acceptCommand (hr : s.rstN = true) (w : Word) : (acceptCommand w s).ControlInv where
  doneErr := fun hc => absurd hc.1 Bool.false_ne_true
  errInfo := .inl rfl
  errArg := fun _ => rfl
  errCause := fun hc => absurd hc Bool.false_ne_true
  doneNoCause := fun _ => rfl
  busyClean := fun _ => ⟨rfl, rfl, rfl, rfl⟩
  currentOp := fun w' hw => by cases hw; rfl
  inReset := fun hc => absurd (hc.symm.trans hr) Bool.false_ne_true

/-- A write to STATUS only clears DONE, ERR and OVERRUN. -/
theorem writeStatus (h : s.ControlInv) (v : Word) : (writeStatus v s).ControlInv := by
  have hdone (hc : (Machine.writeStatus v s).done = true) : s.done = true := (Bool.and_eq_true_iff.1 hc).1
  have herr (hc : (Machine.writeStatus v s).err = true) : s.err = true := (Bool.and_eq_true_iff.1 hc).1
  exact { h with
    doneErr := fun hc => h.doneErr (hc.imp hdone herr)
    errCause := fun hc => h.errCause (herr hc)
    doneNoCause := fun hc => h.doneNoCause (hdone hc)
    busyClean := fun hb => by
      obtain ⟨hd, he, hinfo, harg⟩ := h.busyClean hb
      exact ⟨by simp [hd], by simp [he], hinfo, harg⟩ }

/-- rst_n going low stops the command in progress, if there is one. -/
theorem stopped (h : s.ControlInv) : ({ s with rstN := false, seq := .idle } : State).ControlInv :=
  { h with
    busyClean := fun hc => absurd hc Bool.false_ne_true
    currentOp := fun w hw => by cases hw
    inReset := fun _ => rfl }

theorem enterInit (s : State) : (enterInit s).ControlInv where
  doneErr := fun hc => absurd hc.1 Bool.false_ne_true
  errInfo := .inl rfl
  errArg := fun _ => rfl
  errCause := fun hc => absurd hc Bool.false_ne_true
  doneNoCause := fun _ => rfl
  busyClean := fun _ => ⟨rfl, rfl, rfl, rfl⟩
  currentOp := fun w hw => by cases hw
  inReset := fun hc => absurd hc.symm Bool.false_ne_true

theorem sequencerMove (h : s.ControlInv) {t : State} (hm : sequencerMove s = .next t) : t.ControlInv := by
  rcases sequencerMove_completes hm with ⟨rfl, -⟩ | ⟨-, rfl⟩ | ⟨w, u, hs, hu, ht⟩
  · exact h
  · exact { h with
      busyClean := fun hc => absurd hc Bool.false_ne_true
      currentOp := fun w hw => by cases hw
      inReset := fun _ => rfl }
  · have hb : u.busy = true := by simp [State.busy, hu.seq, hs]
    rcases ht with rfl | ⟨r, rfl⟩
    · exact (h.of_untouched hu).completeOk hb
    · exact (h.of_untouched hu).completeErr hb r

theorem hostRead (h : s.ControlInv) (addr : BitVec 18) (n : Width) : (hostRead addr n s).ControlInv := by
  rcases hostRead_cases addr n s with ⟨-, e⟩ | ⟨g, -, -, e⟩ | ⟨g, -, -, e⟩ <;> rw [e] <;> exact { h with }

theorem hostWrite (h : s.ControlInv) (hr : s.rstN = true) (addr : BitVec 18) (n : Width) (v : Word) :
    (hostWrite addr n v s).ControlInv := by
  rcases hostWrite_control addr n v s with ⟨-, -, e⟩ | ⟨-, e⟩ | ⟨-, e⟩ | e | ⟨u, r, hu, e⟩ <;> rw [e]
  · exact { h with }
  · exact { h with }
  · exact { ControlInv.acceptCommand hr v with }
  · exact { h.writeStatus v with }
  · exact { h.of_untouched hu with }

theorem resetLow (h : s.ControlInv) : (resetLow s).ControlInv := by
  rcases resetLow_cases s with e | e | e <;> rw [e]
  · exact h
  · exact h.stopped
  · exact { h.stopped with }

theorem resetHigh (h : s.ControlInv) : (resetHigh s).ControlInv := by
  rcases resetHigh_cases s with e | e <;> rw [e]
  · exact h
  · exact enterInit s

/-- Every step keeps the control part of the invariant. -/
theorem step (h : s.ControlInv) {t : State} (hs : step s = .next t) : t.ControlInv := by
  have h' : (afterEvent s).ControlInv := { h with }
  rcases step_cases s t hs with ⟨-, hm⟩ | ⟨addr, n, rest, -, -, rfl⟩ | ⟨addr, n, v, rest, -, hr, rfl⟩ |
      ⟨rest, -, rfl⟩ | ⟨rest, -, rfl⟩
  · exact h'.sequencerMove hm
  · exact h'.hostRead addr n
  · exact h'.hostWrite hr addr n v
  · exact h'.resetLow
  · exact h'.resetHigh

end State.ControlInv

/-- Settles O19: every step keeps both parts of the invariant. -/
theorem stepKeepsInvariant : Obligations.StepKeepsInvariant := by
  intro s t hi hs
  obtain ⟨hd, hc⟩ := (inv_iff s).1 hi
  exact (inv_iff t).2 ⟨hd.step hs, hc.step hs⟩

end Sys2Proof.Machine
end

section
/-! PROOFS. Reads in IDLE: each register and window word returns its fields. -/

namespace Sys2Proof.Machine

/-! ## The window words of the address map -/

theorem wordTarget_ftSym (i : Nat) (hi : i < 256) : wordTarget (0x1000 + 8 * i) = some (.ftSym i) := by
  have hmod : (0x1000 + 8 * i) % 8 = 0 := by omega
  have hdiv : (0x1000 + 8 * i - 0x1000) / 8 = i := by omega
  rw [wordTarget, if_pos (by omega), if_pos hmod, hdiv]

theorem wordTarget_ftCnt (i : Nat) (hi : i < 256) : wordTarget (0x1004 + 8 * i) = some (.ftCnt i) := by
  have hmod : (0x1004 + 8 * i) % 8 ≠ 0 := by omega
  have hdiv : (0x1004 + 8 * i - 0x1000) / 8 = i := by omega
  rw [wordTarget, if_pos (by omega), if_neg hmod, hdiv]

theorem wordTarget_ctCtrl (c : Byte) : wordTarget (0x2000 + 8 * c.toNat) = some (.ctCtrl c) := by
  have hc := c.isLt
  have hmod : (0x2000 + 8 * c.toNat) % 8 = 0 := by omega
  have hdiv : (0x2000 + 8 * c.toNat - 0x2000) / 8 = c.toNat := by omega
  rw [wordTarget, if_neg (by omega), if_pos (by omega), if_pos hmod, hdiv, BitVec.ofNat_toNat, BitVec.setWidth_eq]

theorem wordTarget_ctBits (c : Byte) : wordTarget (0x2004 + 8 * c.toNat) = some (.ctBits c) := by
  have hc := c.isLt
  have hmod : (0x2004 + 8 * c.toNat) % 8 ≠ 0 := by omega
  have hdiv : (0x2004 + 8 * c.toNat - 0x2000) / 8 = c.toNat := by omega
  rw [wordTarget, if_neg (by omega), if_pos (by omega), if_neg hmod, hdiv, BitVec.ofNat_toNat, BitVec.setWidth_eq]

theorem wordTarget_arena (n word : Nat) (hn : n < 511) (hw : word < 4) :
    wordTarget (0x4000 + 16 * n + 4 * word) = some (.arena n word) := by
  have hdiv : (0x4000 + 16 * n + 4 * word - 0x4000) / 16 = n := by omega
  have hmod : (0x4000 + 16 * n + 4 * word) % 16 / 4 = word := by omega
  rw [wordTarget, if_neg (by omega), if_neg (by omega), if_pos (by omega), hdiv, hmod]

/-! ## A read in IDLE -/

/-- What a target reads does not depend on the events to come. -/
theorem readStored_afterEvent (s : State) (n : Width) (g : Target) :
    readStored (afterEvent s) n g = readStored s n g := by
  cases g with
  | reg r => cases r <;> rfl
  | _ => rfl

/-- In IDLE, a read answers what its target holds, and changes nothing else but `inputs`. -/
theorem step_read_idle {s : State} {addr : BitVec 18} {n : Width} {rest : List Input} {g : Target}
    (hr : s.rstN = true) (hs : s.seq = .idle) (hi : s.inputs = .read addr n :: rest)
    (hg : target s.params addr.toNat n = some g) :
    step s = .next { s with resp := .data (readStored s n g), inputs := rest } := by
  have hb : s.busy = false := by simp [State.busy, hs]
  rw [step_read hr hi]
  rcases hostRead_cases addr n (afterEvent s) with ⟨h, -⟩ | ⟨g', -, h, -⟩ | ⟨g', h, -, e⟩
  · cases hg.symm.trans h
  · cases hb.symm.trans h
  · cases hg.symm.trans h
    rw [e, readStored_afterEvent]
    simp [afterEvent, hi]

/-- In IDLE, a 4-byte read of the word at an aligned offset below SRC answers what the map of words has there. -/
theorem step_read_word {s : State} {rest : List Input} {a : Nat} {g : Target} (hr : s.rstN = true) (hs : s.seq = .idle)
    (hi : s.inputs = .read (BitVec.ofNat 18 a) .w4 :: rest) (hg : wordTarget a = some g) (ha : a % 4 = 0)
    (hlt : a < Config.srcBase) : step s = .next { s with resp := .data (readStored s .w4 g), inputs := rest } := by
  refine step_read_idle hr hs hi ?_
  have ht : (BitVec.ofNat 18 a).toNat = a := by
    simp only [Config.srcBase] at hlt
    rw [BitVec.toNat_ofNat]
    omega
  rw [ht, target_word _ ha hlt, hg]

/-! ## The fields of the words -/

theorem statusWord_idle {s : State} (hs : s.seq = .idle) :
    statusWord s =
      BitVec.ofNat 32 (2 * bitNat s.done + 4 * bitNat s.err + 8 * bitNat s.overrun + 16 * bitNat s.treeValid) := by
  have hb : bitNat s.busy = 0 := by simp [State.busy, hs, bitNat]
  rw [statusWord, hb, Nat.zero_add]

theorem ofNat_paramBufBytes (n : Nat) : (BitVec.ofNat 17 n).setWidth 32 = BitVec.ofNat 32 (n % 0x20000) := by
  apply BitVec.eq_of_toNat_eq
  simp

/-- The low word of a node's frequency. -/
theorem freq_low (f : BitVec 40) : f.extractLsb' 0 32 = BitVec.ofNat 32 (f.toNat % 0x100000000) := by
  apply BitVec.eq_of_toNat_eq
  simp

/-- The words of a leaf (10_state.md R37). -/
theorem nodeWord_leaf (symbol : Byte) (f : BitVec 40) (word : Nat) (hw : word < 4) :
    nodeWord (some (.leaf symbol f)) word = BitVec.ofNat 32
      (if word = 0 then 1 + 0x100 * symbol.toNat
      else if word = 1 then f.toNat % 0x100000000
      else if word = 2 then f.toNat / 0x100000000
      else 0) := by
  have hword : word = 0 ∨ word = 1 ∨ word = 2 ∨ word = 3 := by omega
  rcases hword with rfl | rfl | rfl | rfl <;> simp [nodeWord, freq_low]

/-- The words of an internal node (10_state.md R37). -/
theorem nodeWord_internal (f : BitVec 40) (l r : BitVec 9) (word : Nat) (hw : word < 4) :
    nodeWord (some (.internal f l r)) word = BitVec.ofNat 32
      (if word = 0 then 2
      else if word = 1 then f.toNat % 0x100000000
      else if word = 2 then f.toNat / 0x100000000
      else l.toNat + 0x10000 * r.toNat) := by
  have hword : word = 0 ∨ word = 1 ∨ word = 2 ∨ word = 3 := by omega
  rcases hword with rfl | rfl | rfl | rfl <;> simp [nodeWord, freq_low]

/-- Settles O8: the target of each offset, and the fields of its word. -/
theorem idleReadsReturnTheFields : Obligations.IdleReadsReturnTheFields := by
  intro s rest hr hs
  refine ⟨fun a d hmem hi => ?_, fun i hi => ?_, fun i hi => ?_, fun c hi => ?_, fun c hi => ?_,
    fun n word hn hw hi => ?_⟩
  · have reads (r : Reg) (ha : a.toNat = r.offset) (hd : readReg s r = BitVec.ofNat 32 d) :
        step s = .next { s with resp := .data (BitVec.ofNat 32 d), inputs := rest } := by
      rw [← hd]
      exact step_read_idle (g := .reg r) hr hs hi (ha ▸ target_reg s.params r)
    simp only [List.mem_cons, List.not_mem_nil, or_false, Prod.mk.injEq] at hmem
    rcases hmem with ⟨ha, rfl⟩ | ⟨ha, rfl⟩ | ⟨ha, rfl⟩ | ⟨ha, rfl⟩ | ⟨ha, rfl⟩ | ⟨ha, rfl⟩ | ⟨ha, rfl⟩ | ⟨ha, rfl⟩ |
      ⟨ha, rfl⟩ | ⟨ha, rfl⟩ | ⟨ha, rfl⟩ | ⟨ha, rfl⟩ | ⟨ha, rfl⟩ | ⟨ha, rfl⟩ | ⟨ha, rfl⟩
    · exact reads .id ha rfl
    · exact reads .cmd ha rfl
    · exact reads .status ha (statusWord_idle hs)
    · exact reads .ctrl ha rfl
    · exact reads .errInfo ha rfl
    · exact reads .errArg ha (by simp [readReg])
    · exact reads .ftLen ha (BitVec.ofNat_toNat ..).symm
    · exact reads .srcLen ha (BitVec.ofNat_toNat ..).symm
    · exact reads .padIn ha (BitVec.ofNat_toNat ..).symm
    · exact reads .outLen ha (BitVec.ofNat_toNat ..).symm
    · exact reads .padOut ha (BitVec.ofNat_toNat ..).symm
    · exact reads .totalBits ha (by simp [readReg])
    · exact reads .nodeCount ha (BitVec.ofNat_toNat ..).symm
    · exact reads .root ha (BitVec.ofNat_toNat ..).symm
    · exact reads .paramBufBytes ha (ofNat_paramBufBytes _)
  · have hlt := i.isLt
    rw [BitVec.ofNat_toNat]
    exact step_read_word hr hs hi (wordTarget_ftSym _ hlt) (by omega) (by simp only [Config.srcBase]; omega)
  · have hlt := i.isLt
    exact step_read_word hr hs hi (wordTarget_ftCnt _ hlt) (by omega) (by simp only [Config.srcBase]; omega)
  · have hlt := c.isLt
    exact step_read_word hr hs hi (wordTarget_ctCtrl c) (by omega) (by simp only [Config.srcBase]; omega)
  · have hlt := c.isLt
    exact step_read_word hr hs hi (wordTarget_ctBits c) (by omega) (by simp only [Config.srcBase]; omega)
  · rw [step_read_word hr hs hi (wordTarget_arena n word hn hw) (by omega) (by simp only [Config.srcBase]; omega),
      readStored]
    cases nodeAt s.arena n with
    | none => rfl
    | some node =>
      cases node with
      | leaf symbol f => simp only [nodeWord_leaf _ _ _ hw]
      | internal f l r => simp only [nodeWord_internal _ _ _ _ hw]

end Sys2Proof.Machine
end

section
/-! PROOFS. Which accesses the address map allows, and what a read or write does when it is the next event. -/

namespace Sys2Proof.Machine

/-! ## Allowed accesses -/

/-- The 4-byte-aligned offsets up to 0x38 are the offsets of the registers (20_memory.md R61). -/
theorem regAt_isSome_iff {a : Nat} (ha : a % 4 = 0) : (regAt a).isSome ↔ a ≤ 0x38 := by
  constructor
  · intro h
    obtain ⟨r, hr⟩ := Option.isSome_iff_exists.1 h
    exact eq_offset_of_regAt hr ▸ r.offset_le
  · intro h
    have registers : ∀ k < 15, (regAt (4 * k)).isSome := by decide
    have hk : 4 * (a / 4) = a := by omega
    exact hk ▸ registers (a / 4) (by omega)

/-- The words of the map are the registers and the three windows (20_memory.md R61). -/
theorem wordTarget_isSome_iff {a : Nat} (ha : a % 4 = 0) :
    (wordTarget a).isSome ↔
      a ≤ 0x38 ∨ (0x1000 ≤ a ∧ a ≤ 0x17FF) ∨ (0x2000 ≤ a ∧ a ≤ 0x27FF) ∨ (0x4000 ≤ a ∧ a ≤ 0x5FEF) := by
  have hreg := regAt_isSome_iff ha
  unfold wordTarget
  split
  · exact iff_of_true rfl (by omega)
  · split
    · exact iff_of_true rfl (by omega)
    · split
      · exact iff_of_true rfl (by omega)
      · split
        · next hr => exact iff_of_true rfl (.inl (hreg.1 (Option.isSome_of_eq_some hr)))
        · next hr =>
          have hgt : ¬ a ≤ 0x38 := fun hle => by simpa [hr] using hreg.2 hle
          exact iff_of_false (by simp) (by omega)

/-- An access reaches a target exactly when 20_memory.md R61 and R63 allow it. -/
theorem target_isSome_iff (p : Params) (a : Nat) (n : Width) : (target p a n).isSome ↔ AllowedAccess p a n := by
  unfold target AllowedAccess Config.srcBase Config.dstBase
  split
  · next hmis =>
    have hw4 : ¬ (n = .w4 ∧ a % 4 = 0) := fun ⟨hn, ha⟩ => hmis (hn ▸ ha)
    simp only [Option.isSome_none, Bool.false_eq_true, false_iff, ← and_assoc]
    tauto
  · next hal =>
    have hal := not_not.1 hal
    split
    · next hsrc => simp [hal, hsrc]
    · next hsrc =>
      split
      · next hdst => simp [hal, hdst]
      · next hdst =>
        cases n with
        | w1 => simp [hsrc, hdst]
        | w2 => simp [hsrc, hdst]
        | w4 =>
          have ha : a % 4 = 0 := hal
          simp [wordTarget_isSome_iff ha, ha, hsrc, hdst]

theorem exists_target_of_allowed {p : Params} {a : Nat} {n : Width} (h : AllowedAccess p a n) :
    ∃ g, target p a n = some g :=
  Option.isSome_iff_exists.1 ((target_isSome_iff p a n).2 h)

theorem target_eq_none_of_not_allowed {p : Params} {a : Nat} {n : Width} (h : ¬ AllowedAccess p a n) :
    target p a n = none :=
  Option.not_isSome_iff_eq_none.1 (mt (target_isSome_iff p a n).1 h)

/-- An aligned access inside SRC reaches SRC. -/
theorem target_of_mem_src {p : Params} {a : Nat} {n : Width} (hal : a % n.bytes = 0) (hlo : Config.srcBase ≤ a)
    (hhi : a + n.bytes ≤ Config.srcBase + p.bufBytes) : target p a n = some (.src a) := by
  simp [target, hal, hlo, hhi]

theorem Width.bytes_pos (n : Width) : 0 < n.bytes := by cases n <;> decide

/-- BUF_BYTES is at most the distance of SRC and DST (00_scope.md R6). -/
theorem bufBytes_le {p : Params} (hp : p.wellFormed = true) : p.bufBytes ≤ 0x10000 := by
  simp only [Params.wellFormed, Bool.and_eq_true, decide_eq_true_eq] at hp
  exact hp.2

/-- An aligned access inside DST reaches DST, which no SRC of a legal BUF_BYTES overlaps. -/
theorem target_of_mem_dst {p : Params} {a : Nat} {n : Width} (hp : p.wellFormed = true) (hal : a % n.bytes = 0)
    (hlo : 0x20000 ≤ a) (hhi : a + n.bytes ≤ 0x20000 + p.bufBytes) : target p a n = some (.dst a) := by
  have hle := bufBytes_le hp
  have hpos := n.bytes_pos
  have hsrc : ¬ (Config.srcBase ≤ a ∧ a + n.bytes ≤ Config.srcBase + p.bufBytes) := by
    simp only [Config.srcBase]
    omega
  simp [target, hal, hsrc, hlo, hhi, Config.dstBase]

/-- Below SRC, an allowed access is an aligned one of 4 bytes. -/
theorem aligned_of_allowed {p : Params} {a : Nat} {n : Width} (h : AllowedAccess p a n) (hlt : a < 0x10000) :
    n = .w4 ∧ a % 4 = 0 := by
  rcases h with ⟨hn, ha, -⟩ | ⟨-, hbuf⟩
  · exact ⟨hn, ha⟩
  · omega

/-- From DST on, an allowed access is one inside DST. -/
theorem target_of_allowed_dst {p : Params} {a : Nat} {n : Width} (hp : p.wellFormed = true) (h : AllowedAccess p a n)
    (hlo : 0x20000 ≤ a) : target p a n = some (.dst a) := by
  have hle := bufBytes_le hp
  have hpos := n.bytes_pos
  rcases h with ⟨-, -, hword⟩ | ⟨hal, hbuf⟩
  · omega
  · exact target_of_mem_dst hp hal hlo (by omega)

/-- The word at an aligned offset below SRC, reached through its 18-bit address. -/
theorem target_ofNat_word (p : Params) {a : Nat} {g : Target} (hg : wordTarget a = some g) (ha : a % 4 = 0)
    (hlt : a < 0x10000) : target p (BitVec.ofNat 18 a).toNat .w4 = some g := by
  have ht : (BitVec.ofNat 18 a).toNat = a := by
    rw [BitVec.toNat_ofNat]
    omega
  rw [ht, target_word p ha hlt, hg]

/-! ## The next event is a host transaction -/

theorem afterEvent_of_inputs {s : State} {e : Input} {rest : List Input} (hi : s.inputs = e :: rest) :
    afterEvent s = { s with inputs := rest } := by
  simp [afterEvent, hi]

theorem busy_of_idle {s : State} (hs : s.seq = .idle) : s.busy = false := by simp [State.busy, hs]

theorem readBusy_afterEvent (s : State) (n : Width) (g : Target) : readBusy (afterEvent s) n g = readBusy s n g := by
  simp [readBusy, readStored_afterEvent]

/-- What a target reads depends neither on the last answer nor on the events to come. -/
theorem readStored_answered (s : State) (r : Response) (es : List Input) (n : Width) (g : Target) :
    readStored { s with resp := r, inputs := es } n g = readStored s n g := by
  cases g with
  | reg r => cases r <;> rfl
  | _ => rfl

/-- CMD holds no state (10_state.md R22): it reads 0, also while BUSY = 1. -/
theorem readBusy_cmd (s : State) (n : Width) : readBusy s n (.reg .cmd) = 0 := by
  simp [readBusy, readStored, readReg, drawMask, regDrawMask]

/-- A step that is a read gets a bus error, or answers free bits while BUSY = 1, or answers what its target holds. -/
theorem step_read_cases {s : State} {addr : BitVec 18} {n : Width} {rest : List Input} (hr : s.rstN = true)
    (hi : s.inputs = .read addr n :: rest) :
    (target s.params addr.toNat n = none ∧ step s = .next { s with resp := .busError, inputs := rest }) ∨
      (∃ g, target s.params addr.toNat n = some g ∧ s.busy = true ∧
        step s = .next { s with resp := .data (readBusy s n g), draws := s.draws + 1, inputs := rest }) ∨
      (∃ g, target s.params addr.toNat n = some g ∧ s.busy = false ∧
        step s = .next { s with resp := .data (readStored s n g), inputs := rest }) := by
  rw [step_read hr hi]
  rcases hostRead_cases addr n (afterEvent s) with ⟨hg, e⟩ | ⟨g, hg, hb, e⟩ | ⟨g, hg, hb, e⟩
  · exact .inl ⟨hg, by rw [e, afterEvent_of_inputs hi]⟩
  · exact .inr (.inl ⟨g, hg, hb, by rw [e, readBusy_afterEvent, afterEvent_of_inputs hi]⟩)
  · exact .inr (.inr ⟨g, hg, hb, by rw [e, readStored_afterEvent, afterEvent_of_inputs hi]⟩)

/-- A step that is a read without a target gets a bus error. -/
theorem step_read_busError {s : State} {addr : BitVec 18} {n : Width} {rest : List Input} (hr : s.rstN = true)
    (hi : s.inputs = .read addr n :: rest) (hg : target s.params addr.toNat n = none) :
    step s = .next { s with resp := .busError, inputs := rest } := by
  rcases step_read_cases hr hi with ⟨-, e⟩ | ⟨g, hg', -⟩ | ⟨g, hg', -⟩
  · exact e
  · cases hg.symm.trans hg'
  · cases hg.symm.trans hg'

/-- A step that is a write without a target gets a bus error. -/
theorem step_write_busError {s : State} {addr : BitVec 18} {n : Width} {v : Word} {rest : List Input}
    (hr : s.rstN = true) (hi : s.inputs = .write addr n v :: rest) (hg : target s.params addr.toNat n = none) :
    step s = .next { s with resp := .busError, inputs := rest } := by
  rw [step_write hr hi]
  rcases hostWrite_cases addr n v (afterEvent s) with ⟨-, e⟩ | ⟨g, hg', -⟩ | ⟨g, hg', -⟩
  · rw [e, afterEvent_of_inputs hi]
  · cases hg.symm.trans hg'
  · cases hg.symm.trans hg'

/-- In IDLE, a step that is a write to a target does the write. -/
theorem step_write_idle {s : State} {addr : BitVec 18} {n : Width} {v : Word} {rest : List Input} {g : Target}
    (hr : s.rstN = true) (hs : s.seq = .idle) (hi : s.inputs = .write addr n v :: rest)
    (hg : target s.params addr.toNat n = some g) :
    step s = .next { writeTarget n v { s with inputs := rest } g with resp := .ok } := by
  rw [step_write hr hi, hostWrite_done (s := afterEvent s) hg (.inl (busy_of_idle hs)), afterEvent_of_inputs hi]

/-- In IDLE, a 4-byte write to the word at an aligned offset below SRC does the write. -/
theorem step_write_word {s : State} {rest : List Input} {a : Nat} {v : Word} {g : Target} (hr : s.rstN = true)
    (hs : s.seq = .idle) (hi : s.inputs = .write (BitVec.ofNat 18 a) .w4 v :: rest) (hg : wordTarget a = some g)
    (ha : a % 4 = 0) (hlt : a < 0x10000) :
    step s = .next { writeTarget .w4 v { s with inputs := rest } g with resp := .ok } :=
  step_write_idle hr hs hi (target_ofNat_word _ hg ha hlt)

end Sys2Proof.Machine
end

section
/-! PROOFS. The bits of the register and window words: the reserved ones read 0. -/

namespace Sys2Proof.Machine

/-! ## Words within a mask -/

theorem and_not_eq_zero_iff (w m : Word) : w &&& ~~~m = 0 ↔ ∀ i, w.getLsbD i = true → m.getLsbD i = true := by
  constructor
  · intro h i hw
    have hi : i < 32 := BitVec.lt_of_getLsbD hw
    have hbit : (w &&& ~~~m).getLsbD i = false := by simp [h]
    simpa [hw, hi] using hbit
  · intro h
    apply BitVec.eq_of_getLsbD_eq
    intro i _
    cases hw : w.getLsbD i with
    | false => simp [hw]
    | true => simp [h i hw]

theorem within_or {u w m : Word} (hu : u &&& ~~~m = 0) (hw : w &&& ~~~m = 0) : (u ||| w) &&& ~~~m = 0 := by
  rw [BitVec.and_comm, BitVec.and_or_distrib_left, BitVec.and_comm _ u, BitVec.and_comm _ w, hu, hw]
  rfl

theorem within_and_left {u m : Word} (w : Word) (hu : u &&& ~~~m = 0) : (u &&& w) &&& ~~~m = 0 := by
  rw [BitVec.and_comm u w, BitVec.and_assoc, hu]
  exact BitVec.and_zero

/-- A field of `width` bits at bit `lo` is within a mask that has these bits. -/
theorem within_field {x : Nat} (lo width : Nat) {m : Word} (hx : x < 2 ^ width)
    (hm : BitVec.ofNat 32 (2 ^ lo * (2 ^ width - 1)) &&& ~~~m = 0) : BitVec.ofNat 32 (2 ^ lo * x) &&& ~~~m = 0 := by
  rw [and_not_eq_zero_iff] at hm ⊢
  intro i hi
  apply hm i
  simp only [BitVec.getLsbD_ofNat, Nat.testBit_two_pow_mul, Bool.and_eq_true, decide_eq_true_eq] at hi ⊢
  obtain ⟨h32, hlo, hbit⟩ := hi
  have hlt : i - lo < width := by
    by_contra hge
    have hle : 2 ^ width ≤ 2 ^ (i - lo) := Nat.pow_le_pow_right (by decide) (by omega)
    rw [Nat.testBit_lt_two_pow (by omega)] at hbit
    cases hbit
  exact ⟨h32, hlo, by simp [Nat.testBit_two_pow_sub_one, hlt]⟩

/-- A number below `2 ^ width` is within a mask that has the low `width` bits. -/
theorem within_low {x : Nat} (width : Nat) {m : Word} (hx : x < 2 ^ width)
    (hm : BitVec.ofNat 32 (2 ^ width - 1) &&& ~~~m = 0) : BitVec.ofNat 32 x &&& ~~~m = 0 := by
  simpa using within_field 0 width hx (by simpa using hm)

/-- A word of two parts, the second above bit `k`, is within a mask when both parts are. -/
theorem within_add {x y k : Nat} {m : Word} (hx : x < 2 ^ k) (hxm : BitVec.ofNat 32 x &&& ~~~m = 0)
    (hym : BitVec.ofNat 32 (2 ^ k * y) &&& ~~~m = 0) : BitVec.ofNat 32 (x + 2 ^ k * y) &&& ~~~m = 0 := by
  rw [Nat.add_comm, Nat.two_pow_add_eq_or_of_lt hx, BitVec.ofNat_or]
  exact within_or hym hxm

/-- A register of `k` bits is within a mask that has the low `k` bits. -/
theorem within_setWidth {k : Nat} (x : BitVec k) {m : Word} (hm : BitVec.ofNat 32 (2 ^ k - 1) &&& ~~~m = 0) :
    x.setWidth 32 &&& ~~~m = 0 := by
  rw [← BitVec.ofNat_toNat]
  exact within_low k x.isLt hm

theorem within_allOnes (w : Word) : w &&& ~~~(0xFFFFFFFF : Word) = 0 := by
  have hnot : ~~~(0xFFFFFFFF : Word) = 0 := by decide
  rw [hnot]
  exact BitVec.and_zero

theorem bitNat_lt (b : Bool) : bitNat b < 2 ^ 1 := by cases b <;> decide

/-! ## The words of the block -/

/-- The bits of a target that are not reserved: of a register, those that `definedBits` has at its offset; of a window word, the
bits that its draw reaches (log entry 5). -/
def fieldBits : Target → Word
  | .reg r => definedBits r.offset
  | g => drawMask .w4 g

theorem definedBits_of_wordTarget {a : Nat} {g : Target} (ha : a % 4 = 0) (h : wordTarget a = some g) :
    definedBits a = fieldBits g := by
  unfold wordTarget at h
  split at h
  · next hft =>
    rw [definedBits, if_pos hft]
    split at h <;> next h8 => cases h; simp [h8, fieldBits, drawMask]
  · next hft =>
    split at h
    · next hct =>
      rw [definedBits, if_neg hft, if_pos hct]
      split at h <;> next h8 => cases h; simp [h8, fieldBits, drawMask]
    · next hct =>
      split at h
      · next har =>
        cases h
        rw [definedBits, if_neg hft, if_neg hct, if_pos har]
        have hword : a % 16 = 0 ∨ a % 16 = 4 ∨ a % 16 = 8 ∨ a % 16 = 12 := by omega
        rcases hword with e | e | e | e <;> simp [e, fieldBits, drawMask, arenaMask]
      · split at h
        · next r hr =>
          cases h
          rw [eq_offset_of_regAt hr, fieldBits]
        · cases h

theorem drawMask_within (g : Target) : drawMask .w4 g &&& ~~~fieldBits g = 0 := by
  cases g with
  | reg r => cases r <;> decide
  | _ => exact BitVec.and_not_self _

theorem statusWord_within (s : State) : statusWord s &&& ~~~(0x1F : Word) = 0 := by
  refine within_low 5 ?_ (by decide)
  have hb := bitNat_lt s.busy
  have hd := bitNat_lt s.done
  have he := bitNat_lt s.err
  have ho := bitNat_lt s.overrun
  have ht := bitNat_lt s.treeValid
  omega

theorem errInfoWord_within (e : ErrInfo) : errInfoWord e &&& ~~~(0x000FFF0F : Word) = 0 := by
  have hk := e.kind.isLt
  have hc := e.cause.isLt
  exact within_add (k := 16) (by omega)
    (within_add (k := 8) (by omega) (within_low 4 hk (by decide)) (within_field 8 8 hc (by decide)))
    (within_field 16 4 e.op.isLt (by decide))

theorem ctCtrlWord_within (e : CtEntry) : ctCtrlWord e &&& ~~~(0x8000003F : Word) = 0 := by
  have hl := e.len.isLt
  exact within_add (k := 31) (by omega) (within_low 6 hl (by decide)) (within_field 31 1 (bitNat_lt _) (by decide))

theorem freq_high_lt (f : BitVec 40) : f.toNat / 2 ^ 32 < 2 ^ 8 := by
  have hf := f.isLt
  omega

/-- The words of a node have only the bits of `arenaMask` (10_state.md R37). -/
theorem nodeWord_within (n : Option Node) (word : Nat) : nodeWord n word &&& ~~~arenaMask word = 0 := by
  cases n with
  | none => exact BitVec.zero_and
  | some node =>
    cases node with
    | leaf symbol f =>
      match word with
      | 0 => exact within_add (k := 8) (x := 1) (by decide) (by decide) (within_field 8 8 symbol.isLt (by decide))
      | 1 => exact within_allOnes _
      | 2 => exact within_low 8 (freq_high_lt f) (by decide)
      | _ + 3 => exact BitVec.zero_and
    | internal f l r =>
      match word with
      | 0 => exact (by decide : (2 : Word) &&& ~~~(0xFF03 : Word) = 0)
      | 1 => exact within_allOnes _
      | 2 => exact within_low 8 (freq_high_lt f) (by decide)
      | _ + 3 =>
        have hl := l.isLt
        exact within_add (k := 16) (m := 0x01FF01FF) (by omega) (within_low 9 hl (by decide))
          (within_field 16 9 r.isLt (by decide))

theorem readReg_within (s : State) (r : Reg) : readReg s r &&& ~~~definedBits r.offset = 0 := by
  cases r with
  | id => exact within_allOnes _
  | cmd => exact BitVec.zero_and
  | status => exact statusWord_within s
  | ctrl => exact within_low 1 (bitNat_lt s.irqEn) (by decide)
  | errInfo => exact errInfoWord_within s.errInfo
  | errArg => exact within_allOnes _
  | ftLen => exact within_setWidth s.ftLen (by decide)
  | srcLen => exact within_setWidth s.srcLen (by decide)
  | padIn => exact within_setWidth s.padIn (by decide)
  | outLen => exact within_setWidth s.outLen (by decide)
  | padOut => exact within_setWidth s.padOut (by decide)
  | totalBits => exact within_allOnes _
  | nodeCount => exact within_setWidth s.nodeCount (by decide)
  | root => exact within_setWidth s.root (by decide)
  | paramBufBytes => exact within_setWidth (BitVec.ofNat 17 s.params.bufBytes) (by decide)

theorem readStored_within (s : State) (g : Target) : readStored s .w4 g &&& ~~~fieldBits g = 0 := by
  cases g with
  | reg r => exact readReg_within s r
  | ftSym i => exact within_setWidth (m := 0xFF) (ftAt s.ft i).sym (by decide)
  | ftCnt i => exact within_allOnes _
  | ctCtrl c => exact ctCtrlWord_within (ctAt s.ct c)
  | ctBits c => exact within_allOnes _
  | arena n word => exact nodeWord_within (nodeAt s.arena n) word
  | src a => exact within_allOnes _
  | dst a => exact within_allOnes _

theorem readBusy_within (s : State) (g : Target) : readBusy s .w4 g &&& ~~~fieldBits g = 0 := by
  refine within_or (within_and_left _ (readStored_within s g)) ?_
  rw [BitVec.and_comm (Config.freeWord s.draws)]
  exact within_and_left _ (drawMask_within g)

end Sys2Proof.Machine
end

section
/-! PROOFS. The bytes of SRC and DST as the words of the port: little-endian (20_memory.md R65). -/

namespace Sys2Proof.Machine

/-- The number whose byte q is `b q`, for q < n. -/
def littleEndian (b : Nat → Byte) (n : Nat) : Nat := ((List.range n).map fun q => (b q).toNat * 2 ^ (8 * q)).sum

theorem readBuffer_eq_littleEndian (s : State) (a : Nat) (n : Width) :
    readBuffer s a n = BitVec.ofNat 32 (littleEndian (fun q => readByte s (a + q)) n.bytes) := rfl

theorem littleEndian_succ (b : Nat → Byte) (n : Nat) :
    littleEndian b (n + 1) = littleEndian b n + 2 ^ (8 * n) * (b n).toNat := by
  simp [littleEndian, List.range_succ, Nat.mul_comm]

theorem littleEndian_lt (b : Nat → Byte) (n : Nat) : littleEndian b n < 2 ^ (8 * n) := by
  induction n with
  | zero => simp [littleEndian]
  | succ n ih =>
    have hb : 2 ^ (8 * n) * (b n).toNat ≤ 2 ^ (8 * n) * 255 := Nat.mul_le_mul_left _ (Nat.le_of_lt_succ (b n).isLt)
    have hpow : 2 ^ (8 * (n + 1)) = 2 ^ (8 * n) * 256 := Nat.pow_add 2 (8 * n) 8
    rw [littleEndian_succ, hpow]
    omega

theorem littleEndian_byte (b : Nat → Byte) {q n : Nat} (hq : q < n) :
    littleEndian b n / 2 ^ (8 * q) % 2 ^ 8 = (b q).toNat := by
  induction n with
  | zero => omega
  | succ n ih =>
    rw [littleEndian_succ]
    rcases Nat.lt_succ_iff_lt_or_eq.1 hq with hlt | rfl
    · have hpow : 2 ^ (8 * n) = 2 ^ (8 * q) * (2 ^ 8 * 2 ^ (8 * (n - q - 1))) := by
        rw [← Nat.pow_add, ← Nat.pow_add]
        congr 1
        omega
      rw [hpow, Nat.mul_assoc, Nat.add_mul_div_left _ _ (Nat.two_pow_pos _), Nat.mul_assoc, Nat.add_mul_mod_self_left,
        ih hlt]
    · rw [Nat.add_mul_div_left _ _ (Nat.two_pow_pos _), Nat.div_eq_of_lt (littleEndian_lt b q), Nat.zero_add,
        Nat.mod_eq_of_lt (b q).isLt]

theorem readBuffer_toNat (s : State) (a : Nat) (n : Width) :
    (readBuffer s a n).toNat = littleEndian (fun q => readByte s (a + q)) n.bytes := by
  have hle : 2 ^ (8 * n.bytes) ≤ 2 ^ 32 := by cases n <;> decide
  rw [readBuffer_eq_littleEndian, BitVec.toNat_ofNat]
  exact Nat.mod_eq_of_lt (Nat.lt_of_lt_of_le (littleEndian_lt _ _) hle)

theorem readBuffer_lt (s : State) (a : Nat) (n : Width) : (readBuffer s a n).toNat < 2 ^ (8 * n.bytes) :=
  readBuffer_toNat s a n ▸ littleEndian_lt _ _

/-- Byte q of what a read of a buffer returns. -/
theorem readBuffer_byte (s : State) (a : Nat) (n : Width) {q : Nat} (hq : q < n.bytes) :
    (readBuffer s a n).extractLsb' (8 * q) 8 = readByte s (a + q) := by
  apply BitVec.eq_of_toNat_eq
  rw [BitVec.extractLsb'_toNat, Nat.shiftRight_eq_div_pow, readBuffer_toNat]
  exact littleEndian_byte _ hq

/-- The bytes that a write to SRC stores are those of its value; every other byte stays. -/
theorem readByte_writeTarget_src (s : State) (a : Nat) (n : Width) (v : Word) :
    (∀ q, q < n.bytes → readByte (writeTarget n v s (.src a)) (a + q) = v.extractLsb' (8 * q) 8) ∧
      ∀ x, x < a ∨ a + n.bytes ≤ x → readByte (writeTarget n v s (.src a)) x = readByte s x := by
  simp only [writeTarget, readByte_writeBytes, storedBytes_length]
  refine ⟨fun q hq => ?_, fun x hx => dif_neg (by omega)⟩
  rw [dif_pos (by omega)]
  simp [storedBytes, byteOfWord]

end Sys2Proof.Machine
end

section
/-! PROOFS. The statements of the family "memory": bus errors, reserved bits, the buffers, read-only targets, reads. -/

namespace Sys2Proof.Machine

/-- Settles O6: an access is allowed exactly when it has a target. -/
theorem busErrorsChangeNothing : Obligations.BusErrorsChangeNothing := by
  intro s addr n v rest hr
  refine ⟨fun hna hi => ?_, fun ha hi => ?_, fun ha hi => ?_⟩
  · have hg := target_eq_none_of_not_allowed hna
    rcases hi with hi | hi
    · exact step_read_busError hr hi hg
    · exact step_write_busError hr hi hg
  · obtain ⟨g, hg⟩ := exists_target_of_allowed ha
    rcases step_read_cases hr hi with ⟨hn, -⟩ | ⟨g', -, -, e⟩ | ⟨g', -, -, e⟩
    · cases hg.symm.trans hn
    · exact ⟨_, _, e, rfl⟩
    · exact ⟨_, _, e, rfl⟩
  · obtain ⟨g, hg⟩ := exists_target_of_allowed ha
    rw [step_write hr hi]
    rcases hostWrite_cases addr n v (afterEvent s) with ⟨hn, -⟩ | ⟨g', -, -, -, e⟩ | ⟨g', -, -, e⟩
    · cases hg.symm.trans hn
    · exact ⟨_, rfl, by rw [e]⟩
    · exact ⟨_, rfl, by rw [e]⟩

/-- The part of O7 about reads: what is read lies within the fields of the target. -/
theorem read_within_definedBits {s t : State} {addr : BitVec 18} {rest : List Input} {d : Word} (hr : s.rstN = true)
    (hlt : addr.toNat < 0x10000) (hi : s.inputs = .read addr .w4 :: rest) (ht : step s = .next t)
    (hd : t.resp = .data d) : d &&& ~~~definedBits addr.toNat = 0 := by
  have fields {g : Target} (hg : target s.params addr.toNat .w4 = some g) :
      definedBits addr.toNat = fieldBits g := by
    have hal : addr.toNat % 4 = 0 := by
      by_contra hmis
      simp [target, Width.bytes, hmis] at hg
    exact definedBits_of_wordTarget hal (target_word s.params hal hlt ▸ hg)
  rcases step_read_cases hr hi with ⟨-, e⟩ | ⟨g, hg, -, e⟩ | ⟨g, hg, -, e⟩ <;> cases e.symm.trans ht <;> cases hd
  · exact fields hg ▸ readBusy_within s g
  · exact fields hg ▸ readStored_within s g

/-- Settles O7: reads stay within the fields of their target, and each write does what `writeTarget` says of its target. -/
theorem reservedBits : Obligations.ReservedBits := by
  refine ⟨fun s t addr rest d hr hlt hi ht hd => read_within_definedBits hr hlt hi ht hd, fun s v rest hr hs => ?_⟩
  have register (r : Reg) {addr : BitVec 18} (ha : addr.toNat = r.offset) (hi : s.inputs = .write addr .w4 v :: rest) :
      step s = .next { writeReg v { s with inputs := rest } r with resp := .ok } :=
    step_write_idle (g := .reg r) hr hs hi (ha ▸ target_reg s.params r)
  refine ⟨register .ctrl rfl, register .ftLen rfl, register .srcLen rfl, register .padIn rfl, fun i hi => ?_,
    fun i hi => ?_, fun c hi => ?_, fun c hi => ?_⟩
  · have hlt := i.isLt
    refine ⟨_, step_write_word hr hs hi (wordTarget_ftSym _ hlt) (by omega) (by omega), rfl, fun j => ?_⟩
    by_cases hj : j = i.toNat <;> simp [writeTarget, hj]
  · have hlt := i.isLt
    refine ⟨_, step_write_word hr hs hi (wordTarget_ftCnt _ hlt) (by omega) (by omega), rfl, fun j => ?_⟩
    by_cases hj : j = i.toNat <;> simp [writeTarget, hj]
  · have hlt := c.isLt
    refine ⟨_, step_write_word hr hs hi (wordTarget_ctCtrl c) (by omega) (by omega), rfl, fun d => ?_⟩
    by_cases hd : d = c <;> simp [writeTarget, hd]
  · have hlt := c.isLt
    refine ⟨_, step_write_word hr hs hi (wordTarget_ctBits c) (by omega) (by omega), rfl, fun d => ?_⟩
    by_cases hd : d = c <;> simp [writeTarget, hd]

/-- Settles O10: SRC takes the bytes of a write, and a read of SRC or DST is the number of their bytes. -/
theorem bufferAccessesAreLittleEndian : Obligations.BufferAccessesAreLittleEndian := by
  intro s addr n v rest hr hs hal hp
  refine ⟨fun hlo hhi hi => ?_, fun hbuf hi => ?_⟩
  · have hg := target_of_mem_src hal hlo hhi
    obtain ⟨hbytes, hother⟩ := readByte_writeTarget_src { s with inputs := rest } addr.toNat n v
    exact ⟨_, step_write_idle hr hs hi hg, rfl, hbytes, hother⟩
  · have read {g : Target} (hg : target s.params addr.toNat n = some g)
        (hst : readStored s n g = readBuffer s addr.toNat n) :
        step s = .next { s with resp := .data (readBuffer s addr.toNat n), inputs := rest } :=
      hst ▸ step_read_idle hr hs hi hg
    refine ⟨readBuffer s addr.toNat n, ?_, fun q => readBuffer_byte s _ n, readBuffer_lt s _ n⟩
    rcases hbuf with ⟨hlo, hhi⟩ | ⟨hlo, hhi⟩
    · exact read (target_of_mem_src hal hlo hhi) rfl
    · exact read (target_of_mem_dst hp hal hlo hhi) rfl

/-- The target of an allowed access to a read-only offset keeps the state (20_memory.md R67). -/
theorem readOnly_target {p : Params} {addr : BitVec 18} {n : Width} (hp : p.wellFormed = true)
    (h : AllowedAccess p addr.toNat n)
    (hro : addr.toNat ∈ [0x000, 0x010, 0x014, 0x024, 0x028, 0x02C, 0x030, 0x034, 0x038] ∨
      (0x4000 ≤ addr.toNat ∧ addr.toNat ≤ 0x5FEF) ∨ 0x20000 ≤ addr.toNat) :
    ∃ g, target p addr.toNat n = some g ∧ ∀ v s, writeTarget n v s g = s := by
  rcases hro with hreg | ⟨hlo, hhi⟩ | hdst
  · have register (r : Reg) (ha : addr.toNat = r.offset) (hw : ∀ v s, writeReg v s r = s) :
        ∃ g, target p addr.toNat n = some g ∧ ∀ v s, writeTarget n v s g = s := by
      have hle := r.offset_le
      obtain ⟨rfl, -⟩ := aligned_of_allowed h (by omega)
      exact ⟨.reg r, ha ▸ target_reg p r, hw⟩
    simp only [List.mem_cons, List.not_mem_nil, or_false] at hreg
    rcases hreg with ha | ha | ha | ha | ha | ha | ha | ha | ha
    · exact register .id ha fun _ _ => rfl
    · exact register .errInfo ha fun _ _ => rfl
    · exact register .errArg ha fun _ _ => rfl
    · exact register .outLen ha fun _ _ => rfl
    · exact register .padOut ha fun _ _ => rfl
    · exact register .totalBits ha fun _ _ => rfl
    · exact register .nodeCount ha fun _ _ => rfl
    · exact register .root ha fun _ _ => rfl
    · exact register .paramBufBytes ha fun _ _ => rfl
  · have hlt : addr.toNat < 0x10000 := by omega
    obtain ⟨rfl, ha⟩ := aligned_of_allowed h hlt
    have hg := wordTarget_arena ((addr.toNat - 0x4000) / 16) (addr.toNat % 16 / 4) (by omega) (by omega)
    have haddr : 0x4000 + 16 * ((addr.toNat - 0x4000) / 16) + 4 * (addr.toNat % 16 / 4) = addr.toNat := by omega
    rw [haddr] at hg
    exact ⟨_, (target_word p ha hlt).trans hg, fun _ _ => rfl⟩
  · exact ⟨.dst addr.toNat, target_of_allowed_dst hp h hdst, fun _ _ => rfl⟩

/-- Settles O11: the target of the write keeps the state, and CMD reads 0 with BUSY = 0 and with BUSY = 1. -/
theorem readOnlyTargetsIgnoreWrites : Obligations.ReadOnlyTargetsIgnoreWrites := by
  intro s addr n v rest hr hp
  refine ⟨fun hs hi ha hro => ?_, fun hi => ?_⟩
  · obtain ⟨g, hg, hw⟩ := readOnly_target hp ha hro
    rw [step_write_idle hr hs hi hg, hw]
  · have hcmd : target s.params (0x004 : BitVec 18).toNat .w4 = some (.reg .cmd) := target_reg s.params .cmd
    rcases step_read_cases hr hi with ⟨hg, -⟩ | ⟨g, hg, -, e⟩ | ⟨g, hg, -, e⟩ <;> cases hcmd.symm.trans hg
    · exact ⟨_, e, by rw [readBusy_cmd], rfl⟩
    · exact ⟨_, e, rfl, rfl⟩

/-- Settles O14: each outcome of a read changes only the answer and, while BUSY = 1, the draw counter; in IDLE the target and
what it holds are the same for the second read. -/
theorem readsHaveNoSideEffect : Obligations.ReadsHaveNoSideEffect := by
  intro s addr n rest hr hi
  rcases step_read_cases hr hi with ⟨hg, e⟩ | ⟨g, -, hb, e⟩ | ⟨g, hg, -, e⟩
  · exact ⟨_, e, rfl, fun _ => ⟨rfl, fun _ hi' =>
      step_read_busError (s := { s with resp := .busError, inputs := rest }) hr hi' hg⟩⟩
  · exact ⟨_, e, rfl, fun hs => absurd (busy_of_idle hs) (by simp [hb])⟩
  · refine ⟨_, e, rfl, fun hs => ⟨rfl, fun rest' hi' => ?_⟩⟩
    have again := step_read_idle (s := { s with resp := .data (readStored s n g), inputs := rest }) hr hs hi' hg
    rw [readStored_answered] at again
    exact again

end Sys2Proof.Machine
end

section
/-! PROOFS. The bytes of a word, and the words that the decoder takes and refuses (30_encoding.md R81 to R83). -/

namespace Sys2Proof.Machine

/-! ## Words and bytes -/

/-- The bytes of the word that four bytes make are these bytes (20_memory.md R65). -/
theorem wordBytes_wordOfBytes (b0 b1 b2 b3 : Byte) : wordBytes (wordOfBytes b0 b1 b2 b3) = [b0, b1, b2, b3] := by
  have h0 := b0.isLt
  have h1 := b1.isLt
  have h2 := b2.isLt
  have h3 := b3.isLt
  simp only [wordBytes, List.cons.injEq, and_true]
  refine ⟨?_, ?_, ?_, ?_⟩ <;> apply BitVec.eq_of_toNat_eq <;>
    simp only [wordOfBytes, byteOfWord, BitVec.toNat_ofNat, BitVec.extractLsb'_toNat, Nat.shiftRight_eq_div_pow] <;>
    omega

/-- Bytes that decode begin with a word that decodes. -/
theorem exists_word_of_decodeBytes {bytes rest : List Byte} {i : Instr} (h : decodeBytes bytes = .ok (i, rest)) :
    ∃ w, decodeWord w = .ok i ∧ bytes = wordBytes w ++ rest := by
  unfold decodeBytes at h
  split at h
  · next b0 b1 b2 b3 tail =>
    split at h
    · next j hj =>
      cases h
      exact ⟨_, hj, by rw [wordBytes_wordOfBytes]; rfl⟩
    · cases h
  · cases h

/-! ## The opcode map -/

/-- The law of the round trip for every command. -/
theorem roundTrip (i : Instr) : Laws.RoundTrip.Statement i := by
  cases i with
  | nop => exact Laws.RoundTrip.nop
  | clear => exact Laws.RoundTrip.clear
  | buildTree => exact Laws.RoundTrip.buildTree
  | assignCodes => exact Laws.RoundTrip.assignCodes
  | encode => exact Laws.RoundTrip.encode
  | decode => exact Laws.RoundTrip.decode

theorem decodeWord_encode (i : Instr) : decodeWord (encode i) = .ok i := by
  obtain ⟨-, hword, -⟩ := roundTrip i
  exact hword

theorem instrOfOpcode_reserved {op : BitVec 4} (h : 6 ≤ op.toNat) : instrOfOpcode op = .error (.reservedOpcode op) := by
  unfold instrOfOpcode
  split
  case h_7 => rfl
  all_goals omega

theorem exists_instrOfOpcode {op : BitVec 4} (h : op.toNat < 6) : ∃ i, instrOfOpcode op = .ok i := by
  have hop : op.toNat = 0 ∨ op.toNat = 1 ∨ op.toNat = 2 ∨ op.toNat = 3 ∨ op.toNat = 4 ∨ op.toNat = 5 := by omega
  rcases hop with e | e | e | e | e | e <;> simp [instrOfOpcode, e]

/-- A word with MBZ = 0 decodes as its OPCODE. -/
theorem decodeWord_setWidth (op : BitVec 4) : decodeWord (op.setWidth 32) = instrOfOpcode op := by
  have hop := op.isLt
  have hmbz : mbzField (op.setWidth 32) = 0 := by
    apply BitVec.eq_of_toNat_eq
    change (mbzField (op.setWidth 32)).toNat = 0
    simp only [mbzField, BitVec.extractLsb'_toNat, BitVec.toNat_setWidth, Nat.shiftRight_eq_div_pow]
    omega
  have hfield : opcodeField (op.setWidth 32) = op := by
    apply BitVec.eq_of_toNat_eq
    simp only [opcodeField, BitVec.extractLsb'_toNat, BitVec.toNat_setWidth, Nat.shiftRight_eq_div_pow]
    omega
  rw [decodeWord, if_neg (not_not.2 hmbz), hfield]

/-- The words that decode to a command: bits 31:4 are 0 and OPCODE is below 6. -/
theorem exists_decodeWord_iff (w : Word) :
    (∃ i, decodeWord w = .ok i) ↔ ¬ (mbzField w ≠ 0 ∨ 6 ≤ (opcodeField w).toNat) := by
  unfold decodeWord
  by_cases hmbz : mbzField w ≠ 0
  · rw [if_pos hmbz]
    exact iff_of_false (by simp) (not_not.2 (.inl hmbz))
  · rw [if_neg hmbz]
    by_cases hop : 6 ≤ (opcodeField w).toNat
    · rw [instrOfOpcode_reserved hop]
      exact iff_of_false (by simp) (not_not.2 (.inr hop))
    · exact iff_of_true (exists_instrOfOpcode (Nat.not_le.1 hop)) (not_or.2 ⟨hmbz, hop⟩)

end Sys2Proof.Machine
end

section
/-! PROOFS. The statements of the family "encoding" on command words: decode and encode, illegal words, acceptance. -/

namespace Sys2Proof.Machine

/-- Settles O2: the bytes that decode begin with a word that decodes, and the only word that decodes to a command is its own. -/
theorem decodeIsInverseOfEncode : Obligations.DecodeIsInverseOfEncode := by
  intro bytes rest i
  constructor
  · intro h
    obtain ⟨w, hw, rfl⟩ := exists_word_of_decodeBytes h
    rw [eq_encode_of_decodeWord hw]
  · rintro rfl
    obtain ⟨-, -, hbytes⟩ := roundTrip i
    exact hbytes rest

/-- Settles O4, by the words that decode; the others are `runCommand`'s ILLEGAL_CMD. -/
theorem illegalWordsComplete : Obligations.IllegalWordsComplete := by
  intro w
  refine ⟨fun hw => ?_, fun hw => ?_⟩
  · have hno : ¬ ∃ i, decodeWord w = .ok i := fun hi => (exists_decodeWord_iff w).1 hi hw
    refine ⟨fun i hi => hno ⟨i, hi⟩, fun s hr hs hn => ?_⟩
    rw [step_sequencer s hn, sequencerMove, afterEvent_rstN, hr, if_pos rfl, afterEvent_seq, hs]
    cases hd : decodeWord w with
    | ok i => exact absurd ⟨i, hd⟩ hno
    | error r => simp only [runCommand_eq, hd]; rfl
  · obtain ⟨i, hi⟩ := (exists_decodeWord_iff w).2 hw
    exact ⟨i, eq_encode_of_decodeWord hi, hi⟩

/-- Settles O1, by the opcode map. -/
theorem opcodeMapDecodes : Obligations.OpcodeMapDecodes :=
  ⟨decodeWord_encode .nop, decodeWord_encode .clear, decodeWord_encode .buildTree, decodeWord_encode .assignCodes,
    decodeWord_encode .encode, decodeWord_encode .decode,
    fun op hop => (decodeWord_setWidth op).trans (instrOfOpcode_reserved hop)⟩

/-- A step that is a write which the block ignores sets OVERRUN. -/
theorem step_write_busy {s : State} {addr : BitVec 18} {n : Width} {v : Word} {rest : List Input} {g : Target}
    (hr : s.rstN = true) (hb : s.busy = true) (hi : s.inputs = .write addr n v :: rest)
    (hg : target s.params addr.toNat n = some g) (hw : alwaysWritable g = false) :
    step s = .next { s with overrun := true, resp := .ok, inputs := rest } := by
  rw [step_write hr hi]
  rcases hostWrite_cases addr n v (afterEvent s) with ⟨hg', -⟩ | ⟨g', -, -, -, e⟩ | ⟨g', hg', hdone, -⟩
  · cases hg.symm.trans hg'
  · rw [e, afterEvent_of_inputs hi]
  · cases hg.symm.trans hg'
    rcases hdone with hidle | halways
    · cases hb.symm.trans hidle
    · cases hw.symm.trans halways

/-- Settles O5: CMD is the target of a 4-byte write, and a narrower write has no target. -/
theorem commandIssue : Obligations.CommandIssue := by
  intro s w rest hr
  have hcmd : target s.params (0x004 : BitVec 18).toNat .w4 = some (.reg .cmd) := target_reg s.params .cmd
  have narrow {n : Width} (hn : n ≠ .w4) (hi : s.inputs = .write 0x004 n w :: rest) :
      step s = .next { s with resp := .busError, inputs := rest } :=
    step_write_busError hr hi (target_eq_none_of_not_allowed fun ha => hn (aligned_of_allowed ha (by decide)).1)
  refine ⟨fun hi hs => step_write_idle hr hs hi hcmd, fun hi hb => step_write_busy hr hb hi hcmd rfl, ?_⟩
  rintro (hi | hi)
  · exact narrow (by decide) hi
  · exact narrow (by decide) hi

end Sys2Proof.Machine
end

section
/-! PROOFS. What a completed command has written (30_encoding.md R84): the outputs of ENCODE and DECODE and what they depend on,
and the tables of the other commands. -/

namespace Sys2Proof.Machine

/-! ## ENCODE and DECODE -/

/-- ENCODE succeeds when its checks pass and ERR was 0, and then it has stored the packed bits. -/
theorem succeeds_encode_iff (s t : State) :
    Succeeds .encode s t ↔ s.err = false ∧ ∃ b, encodedBits s = .ok b ∧
      t = completeOk (setOutput (packBits b) (padLength b.length) b.length s) := by
  constructor
  · rintro ⟨h, herr⟩
    rcases exec_encode s with ⟨r, -, e⟩ | ⟨b, hb, e⟩ <;> cases e.symm.trans h
    · cases herr
    · exact ⟨herr, b, hb, rfl⟩
  · rintro ⟨herr, b, hb, rfl⟩
    exact ⟨by simp [exec, execEncode, hb], herr⟩

/-- DECODE succeeds when its checks pass and ERR was 0, and then it has stored the symbols. -/
theorem succeeds_decode_iff (s t : State) :
    Succeeds .decode s t ↔ s.err = false ∧ ∃ b, decodedBytes s = .ok b ∧ t = completeOk (setOutput b 0 (nbits s) s) := by
  constructor
  · rintro ⟨h, herr⟩
    rcases exec_decode s with ⟨r, -, e⟩ | ⟨b, hb, e⟩ <;> cases e.symm.trans h
    · cases herr
    · exact ⟨herr, b, hb, rfl⟩
  · rintro ⟨herr, b, hb, rfl⟩
    exact ⟨by simp [exec, execDecode, hb], herr⟩

/-- The output bytes of a success. -/
theorem readByte_output (s : State) (b : List Byte) (p n : Nat) {j : Nat} (hj : j < b.length) :
    readByte (completeOk (setOutput b p n s)) (Config.dstBase + j) = b[j] := by
  have hw := readByte_writeBytes s Config.dstBase b (Config.dstBase + j)
  rw [dif_pos ⟨Nat.le_add_right _ _, by rwa [Nat.add_sub_cancel_left]⟩] at hw
  simp only [Nat.add_sub_cancel_left] at hw
  exact (readByte_congr _ _ rfl rfl rfl _).trans hw

/-- A success leaves every byte but the output bytes. -/
theorem readByte_outside_output (s : State) (b : List Byte) (p n : Nat) {a : Nat}
    (ha : a < Config.dstBase ∨ Config.dstBase + b.length ≤ a) :
    readByte (completeOk (setOutput b p n s)) a = readByte s a := by
  have hw := readByte_writeBytes s Config.dstBase b a
  rw [dif_neg (by omega)] at hw
  exact (readByte_congr _ _ rfl rfl rfl a).trans hw

/-- The output bytes do not depend on the state they are stored in. -/
theorem readByte_output_congr (s u : State) (b : List Byte) (p n m : Nat) {j : Nat}
    (hj : j < (completeOk (setOutput b p n s)).outLen.toNat) :
    readByte (completeOk (setOutput b p m u)) (0x20000 + j) =
      readByte (completeOk (setOutput b p n s)) (0x20000 + j) := by
  have hlen : j < b.length := Nat.lt_of_lt_of_le hj (Nat.mod_le _ _)
  exact (readByte_output u b p m hlen).trans (readByte_output s b p n hlen).symm

section
variable {s u : State} (hp : u.params = s.params) (hl : u.srcLen = s.srcLen) (hct : u.ct = s.ct)
include hp hl hct

/-- What ENCODE packs depends on BUF_BYTES, SRC_LEN, CT and SRC[0..SRC_LEN−1] only. -/
theorem encodedBits_congr (hsrc : ∀ j, j < s.srcLen.toNat → srcByte u j = srcByte s j) :
    encodedBits u = encodedBits s := by
  have hbytes : srcBytes u s.srcLen.toNat = srcBytes s s.srcLen.toNat :=
    List.map_congr_left fun j hj => hsrc j (List.mem_range.1 hj)
  simp only [encodedBits, hp, hl, hct, hbytes]

/-- What DECODE emits depends on BUF_BYTES, SRC_LEN, CT, the number of bits and these bits only. -/
theorem decodedBytes_congr (hn : nbits u = nbits s) (hsrc : ∀ j, j < nbits s → srcBit u j = srcBit s j) :
    decodedBytes u = decodedBytes s := by
  have hbits : srcBits u = srcBits s := by
    rw [srcBits, srcBits, hn]
    exact List.map_congr_left fun j hj => hsrc j (List.mem_range.1 hj)
  simp only [decodedBytes, hp, hl, hct, hbits]

end

/-- ENCODE and DECODE answer the error outputs, or outputs that fit DST. -/
theorem exec_codec_cases {i : Instr} {s t : State} (hi : i = .encode ∨ i = .decode) (h : exec i s = .next t) :
    (∃ r, t = completeErr r (dropOutput s)) ∨
      ∃ b p n, b.length ≤ s.params.bufBytes ∧ t = completeOk (setOutput b p n s) := by
  rcases hi with rfl | rfl
  · rcases exec_encode s with ⟨r, -, e⟩ | ⟨b, hb, e⟩ <;> cases e.symm.trans h
    · exact .inl ⟨r, rfl⟩
    · exact .inr ⟨_, _, _, (packBits_length b).trans_le (encodedBits_fits hb), rfl⟩
  · rcases exec_decode s with ⟨r, -, e⟩ | ⟨b, hb, e⟩ <;> cases e.symm.trans h
    · exact .inl ⟨r, rfl⟩
    · exact .inr ⟨b, _, _, (decodedBytes_fits hb).2, rfl⟩

/-! ## NOP, CLEAR, BUILD_TREE and ASSIGN_CODES -/

/-- What these commands have written when they complete: nothing, CLEAR the codec's state, BUILD_TREE the tree, ASSIGN_CODES the
CodeTable. -/
theorem exec_table_cases {i : Instr} {s t : State} (h : exec i s = .next t) (he : i ≠ .encode) (hd : i ≠ .decode) :
    ∃ u, (t = completeOk u ∨ ∃ r, t = completeErr r u) ∧
      (u = s ∨ (i = .clear ∧ u = clearCodec s) ∨ (i = .buildTree ∧ (u = dropTree s ∨ ∃ a n, u = setTree a n s)) ∨
        (i = .assignCodes ∧ ∃ ct, u = setCodeTable ct s)) := by
  cases i with
  | nop =>
    cases (exec_nop s).symm.trans h
    exact ⟨s, .inl rfl, .inl rfl⟩
  | clear =>
    cases (exec_clear s).symm.trans h
    exact ⟨_, .inl rfl, .inr (.inl ⟨rfl, rfl⟩)⟩
  | buildTree =>
    rcases exec_buildTree s with ⟨r, -, e⟩ | ⟨-, e⟩ <;> cases e.symm.trans h
    · exact ⟨_, .inr ⟨r, rfl⟩, .inr (.inr (.inl ⟨rfl, .inl rfl⟩))⟩
    · exact ⟨_, .inl rfl, .inr (.inr (.inl ⟨rfl, .inr ⟨_, _, rfl⟩⟩))⟩
  | assignCodes =>
    rcases exec_assignCodes s with ⟨-, e⟩ | ⟨-, ct, -, e⟩ | ⟨-, c, -, e⟩ | ⟨-, -, e⟩ <;> cases e.symm.trans h
    · exact ⟨s, .inr ⟨_, rfl⟩, .inl rfl⟩
    · exact ⟨_, .inl rfl, .inr (.inr (.inr ⟨rfl, ct, rfl⟩))⟩
    · exact ⟨_, .inr ⟨_, rfl⟩, .inr (.inr (.inr ⟨rfl, [], rfl⟩))⟩
  | encode => exact absurd rfl he
  | decode => exact absurd rfl hd

end Sys2Proof.Machine
end

section
/-! PROOFS. The statements of the family "encoding" on operands: what the commands read and what they may write. -/

namespace Sys2Proof.Machine

/-- Settles O48: the operands give the same bits or symbols, and the outputs are made of these alone. -/
theorem codecReadsOnlyItsOperands : Obligations.CodecReadsOnlyItsOperands := by
  rintro i s t u hops hp hl hct herr - ht
  rcases hops with ⟨rfl, hsrc⟩ | ⟨rfl, hpad, hsrc⟩
  · obtain ⟨-, b, hb, rfl⟩ := (succeeds_encode_iff s t).1 ht
    have hub := (encodedBits_congr hp hl hct hsrc).trans hb
    exact ⟨_, (succeeds_encode_iff u _).2 ⟨herr, b, hub, rfl⟩, rfl, rfl, rfl,
      fun j hj => readByte_output_congr s u _ _ _ _ hj⟩
  · obtain ⟨-, b, hb, rfl⟩ := (succeeds_decode_iff s t).1 ht
    have hn : nbits u = nbits s := by simp only [nbits, hl, hpad]
    have hub := (decodedBytes_congr hp hl hct hn hsrc).trans hb
    exact ⟨_, (succeeds_decode_iff u _).2 ⟨herr, b, hub, rfl⟩, rfl, rfl, by simp [hn],
      fun j hj => readByte_output_congr s u _ _ _ _ hj⟩

/-- Settles O50, by what each command has written when it completes. -/
theorem tableCommandsFrame : Obligations.TableCommandsFrame := by
  intro i s t h he hd
  obtain ⟨u, ht, hu⟩ := exec_table_cases h he hd
  rcases hu with rfl | ⟨rfl, rfl⟩ | ⟨rfl, rfl | ⟨a, n, rfl⟩⟩ | ⟨rfl, ct, rfl⟩ <;> rcases ht with rfl | ⟨r, rfl⟩ <;>
    exact ⟨rfl, by simp, by simp, by simp, fun x => readByte_congr _ _ rfl rfl rfl x⟩

/-- Settles O51: an error makes DST unspecified and stores nothing, a success stores the output bytes, which fit DST. -/
theorem codecCommandsFrame : Obligations.CodecCommandsFrame := by
  intro i s t hi hp h
  refine ⟨?_, fun a ha => exec_readByte h ha, fun herr => ?_⟩
  · rcases exec_codec_cases hi h with ⟨r, rfl⟩ | ⟨b, p, n, -, rfl⟩ <;> rfl
  · rcases exec_codec_cases hi h with ⟨r, rfl⟩ | ⟨b, p, n, hfit, rfl⟩
    · cases herr
    · refine ⟨rfl, rfl, rfl, fun a ha => ?_⟩
      have hbuf := bufBytes_le hp
      simp only [completeOk_outLen, setOutput_outLen, BitVec.toNat_ofNat] at ha
      refine readByte_outside_output s b p n (.inr ?_)
      simp only [Config.dstBase]
      omega

end Sys2Proof.Machine
end

section
/-! PROOFS. The checks of BUILD_TREE (40_tree_builder.md R102): when they pass, and which one fails first. -/

namespace Sys2Proof.Machine

/-- The entries that pass the checks, positive counts and symbols that are new and pairwise distinct, are passed over. -/
theorem checkEntries_append (pre es : List FtEntry) {seen : List Byte} {i : Nat} (hpos : ∀ e ∈ pre, e.cnt ≠ 0)
    (hnew : ∀ e ∈ pre, e.sym ∉ seen) (hdist : (pre.map FtEntry.sym).Nodup) :
    checkEntries seen i (pre ++ es) = checkEntries ((pre.map FtEntry.sym).reverse ++ seen) (i + pre.length) es := by
  induction pre generalizing seen i with
  | nil => simp
  | cons e pre ih =>
    obtain ⟨hcnt, hpos⟩ := List.forall_mem_cons.1 hpos
    obtain ⟨hsym, hnew⟩ := List.forall_mem_cons.1 hnew
    rw [List.map_cons, List.nodup_cons] at hdist
    have hnew' : ∀ x ∈ pre, x.sym ∉ e.sym :: seen := fun x hx hmem => by
      rcases List.mem_cons.1 hmem with hx' | hmem
      · exact hdist.1 (hx' ▸ List.mem_map_of_mem hx)
      · exact hnew x hx hmem
    rw [List.cons_append, checkEntries, if_neg hcnt, if_neg hsym, ih hpos hnew' hdist.2]
    simp [Nat.add_assoc, Nat.add_comm 1]

/-- The checks pass on every valid table. -/
theorem checkTable_of_validTable {s : State} (h : ValidTable (ftEntries s.ft s.ftLen.toNat)) : checkTable s = .ok () := by
  obtain ⟨hne, hle, hpos, hdist⟩ := h
  have hk : s.ftLen.toNat ≠ 0 := fun e => hne (by simp [e, ftEntries])
  rw [ftEntries_length] at hle
  rw [checkTable, if_neg (by omega), if_neg hk, ← List.append_nil (ftEntries _ _),
    checkEntries_append _ _ hpos (by simp) hdist, checkEntries]

/-- On a valid table, BUILD_TREE writes the tree of the table. -/
theorem exec_buildTree_of_validTable {s : State} (h : ValidTable (ftEntries s.ft s.ftLen.toNat)) :
    exec .buildTree s = .next (completeOk (setTree (buildArena (ftEntries s.ft s.ftLen.toNat)).2
      (BitVec.ofNat 9 (buildArena (ftEntries s.ft s.ftLen.toNat)).1) s)) := by
  rcases exec_buildTree s with ⟨r, hr, -⟩ | ⟨-, e⟩
  · rw [checkTable_of_validTable h] at hr
    cases hr
  · exact e

/-- A failing check is the one that BUILD_TREE reports. -/
theorem exec_buildTree_of_error {s : State} {r : Raise} (h : checkTable s = .error r) :
    exec .buildTree s = .next (completeErr r (dropTree s)) := by
  rcases exec_buildTree s with ⟨r', hr, e⟩ | ⟨hok, -⟩
  · rw [h] at hr
    cases hr
    exact e
  · rw [h] at hok
    cases hok

/-- A successful BUILD_TREE had a valid table and holds its tree. -/
theorem holdsTree_of_succeeds {s t : State} (h : Succeeds .buildTree s t) :
    HoldsTree (ftEntries s.ft s.ftLen.toNat) t := by
  obtain ⟨hexec, herr⟩ := h
  rcases exec_buildTree s with ⟨r, -, e⟩ | ⟨hok, e⟩ <;> cases e.symm.trans hexec
  · cases herr
  · exact ⟨validTable_of_checkTable hok, rfl, rfl, rfl⟩

/-- Settles O24: the checks pass on a valid table, and the tree written is that of the table. -/
theorem buildTreeCompletes : Obligations.BuildTreeCompletes := fun _ h =>
  ⟨_, exec_buildTree_of_validTable h, rfl, h, rfl, rfl, rfl⟩

/-- Settles O30: the checks pass on valid tables only, and every failing check leaves `dropTree`. -/
theorem buildTreeErrorOutputs : Obligations.BuildTreeErrorOutputs := by
  intro s hinv
  cases hc : checkTable s with
  | ok u => exact absurd (validTable_of_checkTable hc) hinv
  | error r =>
    exact ⟨_, exec_buildTree_of_error hc, rfl, fun n => rfl, fun a => readByte_congr _ _ rfl rfl rfl a⟩

/-- The entry FT[i], i < k, with those before and after it. -/
theorem ftEntries_split (ft : List (Nat × FtEntry)) {i k : Nat} (h : i < k) :
    ∃ post, ftEntries ft k = ftEntries ft i ++ ftAt ft i :: post := by
  obtain ⟨d, rfl⟩ := Nat.exists_eq_add_of_lt h
  refine ⟨(List.range d).map fun j => ftAt ft (i + (j + 1)), ?_⟩
  rw [ftEntries, Nat.add_assoc, List.range_add, List.map_append, List.range_succ_eq_map]
  simp [ftEntries]

theorem mem_ftEntries {ft : List (Nat × FtEntry)} {k : Nat} {e : FtEntry} :
    e ∈ ftEntries ft k ↔ ∃ j, j < k ∧ ftAt ft j = e := by
  simp [ftEntries]

/-- Where the entries before FT[i] pass the checks, the check of FT[i] is the one that decides (R102). -/
theorem checkTable_at {s : State} {i : Nat} (hk : s.ftLen.toNat ≤ 256) (hi : i < s.ftLen.toNat)
    (hpass : ∀ j, j < i → (ftAt s.ft j).cnt ≠ 0 ∧ ∀ h, h < j → (ftAt s.ft h).sym ≠ (ftAt s.ft j).sym) :
    ∃ post, checkTable s =
      checkEntries (((ftEntries s.ft i).map FtEntry.sym).reverse) i (ftAt s.ft i :: post) := by
  obtain ⟨post, hsplit⟩ := ftEntries_split s.ft hi
  have hpos : ∀ e ∈ ftEntries s.ft i, e.cnt ≠ 0 := fun e he => by
    obtain ⟨j, hj, rfl⟩ := mem_ftEntries.1 he
    exact (hpass j hj).1
  have hdist : ((ftEntries s.ft i).map FtEntry.sym).Nodup := by
    rw [List.nodup_iff_pairwise_ne, List.pairwise_map, ftEntries, List.pairwise_map]
    exact List.pairwise_lt_range.imp_of_mem fun _ hb hlt => (hpass _ (List.mem_range.1 hb)).2 _ hlt
  refine ⟨post, ?_⟩
  rw [checkTable, if_neg (by simpa [Config.ftEntries] using hk), if_neg (by omega), hsplit,
    checkEntries_append _ _ hpos (by simp) hdist]
  simp

/-- Settles O29: the checks in their order; the entries before the reported one pass. -/
theorem buildTreeErrors : Obligations.BuildTreeErrors := by
  intro s es passes reports
  have report {c : Cause} {arg : Nat} (h : checkTable s = .error ⟨c, BitVec.ofNat 32 arg⟩) :
      reports (c.errInfo s.curOp) arg := ⟨_, exec_buildTree_of_error h, rfl, rfl, rfl, rfl, rfl⟩
  refine ⟨fun hk => report (c := .badFtLen) ?_, fun hk => report (c := .ftEmpty) ?_, fun hk i hi hpass => ?_⟩
  · rw [checkTable, if_pos (show s.ftLen.toNat > Config.ftEntries from hk), BitVec.ofNat_toNat]
  · rw [checkTable, if_neg (by simp [hk]), if_pos hk]
    rfl
  · rw [ftEntries_length] at hk hi
    obtain ⟨post, hcheck⟩ := checkTable_at hk hi hpass
    refine ⟨fun hz => report (c := .ftZeroCount) ?_, fun hnz hdup => report (c := .ftDupSymbol) ?_⟩
    · rw [hcheck, checkEntries, if_pos hz]
    · obtain ⟨j, hj, hsym⟩ := hdup
      have hseen : (ftAt s.ft i).sym ∈ ((ftEntries s.ft i).map FtEntry.sym).reverse :=
        List.mem_reverse.2 (hsym ▸ List.mem_map_of_mem (mem_ftEntries.2 ⟨j, hj, rfl⟩))
      rw [hcheck, checkEntries, if_neg hnz, if_pos hseen]

end Sys2Proof.Machine
end

section
/-! PROOFS. The invariant of the merge loop of BUILD_TREE (40_tree_builder.md R102), and the tree that the loop ends with. -/

namespace Sys2Proof.Machine

/-! ## Nodes appended to the arena -/

/-- Node n is a child of the internal node j. -/
def IsChild (arena : List Node) (j n : Nat) : Prop :=
  ∃ f l r, nodeAt arena j = some (.internal f l r) ∧ (l.toNat = n ∨ r.toNat = n)

theorem lt_of_nodeAt {arena : List Node} {n : Nat} {x : Node} (h : nodeAt arena n = some x) : n < arena.length :=
  (List.getElem?_eq_some_iff.1 h).1

section
variable {arena : List Node} (new : Node)

@[simp] theorem nodeAt_append_length : nodeAt (arena ++ [new]) arena.length = some new := List.getElem?_concat_length

theorem nodeAt_append_of_lt {n : Nat} (h : n < arena.length) : nodeAt (arena ++ [new]) n = nodeAt arena n :=
  List.getElem?_append_left h

theorem nodeAt_append_of_some {n : Nat} {x : Node} (h : nodeAt arena n = some x) :
    nodeAt (arena ++ [new]) n = some x :=
  (nodeAt_append_of_lt new (lt_of_nodeAt h)).trans h

/-- Which nodes are live when node n is made depends on the nodes before n only. -/
theorem liveBefore_append {k n m : Nat} (hn : n ≤ arena.length) :
    LiveBefore (arena ++ [new]) k n m ↔ LiveBefore arena k n m := by
  refine and_congr_right fun _ => forall_congr' fun j => ?_
  refine forall_congr' fun f => forall_congr' fun l => forall_congr' fun r => ?_
  refine forall_congr' fun _ => forall_congr' fun hj => ?_
  rw [nodeAt_append_of_lt new (by omega)]

theorem KeyBelow.append {a b : Nat} (h : KeyBelow arena a b) : KeyBelow (arena ++ [new]) a b := by
  obtain ⟨x, y, hx, hy, hlt⟩ := h
  exact ⟨x, y, nodeAt_append_of_some new hx, nodeAt_append_of_some new hy, hlt⟩

end

/-! ## One merge -/

/-- Node n = {freq = f, left = l, right = r} joins the two least of the nodes that were live before it, of k leaves
(40_tree_builder.md R101, R102). -/
structure JoinsLeast (arena : List Node) (k n : Nat) (f : BitVec 40) (l r : BitVec 9) : Prop where
  left : LiveBefore arena k n l.toNat
  right : LiveBefore arena k n r.toNat
  below : KeyBelow arena l.toNat r.toNat
  least : ∀ m, LiveBefore arena k n m → m ≠ l.toNat → m ≠ r.toNat → KeyBelow arena r.toNat m
  freq : ∃ x y, nodeAt arena l.toNat = some x ∧ nodeAt arena r.toNat = some y ∧ f.toNat = x.freq.toNat + y.freq.toNat

theorem JoinsLeast.append {arena : List Node} {k n : Nat} {f : BitVec 40} {l r : BitVec 9} (new : Node)
    (h : JoinsLeast arena k n f l r) (hn : n ≤ arena.length) : JoinsLeast (arena ++ [new]) k n f l r where
  left := (liveBefore_append new hn).2 h.left
  right := (liveBefore_append new hn).2 h.right
  below := h.below.append new
  least m hm hl hr := (h.least m ((liveBefore_append new hn).1 hm) hl hr).append new
  freq := by
    obtain ⟨x, y, hx, hy, hf⟩ := h.freq
    exact ⟨x, y, nodeAt_append_of_some new hx, nodeAt_append_of_some new hy, hf⟩

/-- A node's key is not below itself. -/
theorem KeyBelow.ne {arena : List Node} {a b : Nat} (h : KeyBelow arena a b) : a ≠ b := by
  rintro rfl
  obtain ⟨x, y, hx, hy, hlt⟩ := h
  cases hx.symm.trans hy
  omega

/-- The live nodes after node n is made: n itself, and those before it without its children. -/
theorem liveBefore_succ_iff {arena : List Node} {k n m : Nat} {f : BitVec 40} {l r : BitVec 9}
    (hjoin : ∀ j f l r, j ≤ n → nodeAt arena j = some (.internal f l r) → JoinsLeast arena k j f l r) (hk : k ≤ n)
    (hn : nodeAt arena n = some (.internal f l r)) :
    LiveBefore arena k (n + 1) m ↔ m = n ∨ (LiveBefore arena k n m ∧ m ≠ l.toNat ∧ m ≠ r.toNat) := by
  constructor
  · rintro ⟨hlt, hall⟩
    obtain ⟨hl, hr⟩ := hall n f l r hk (by omega) hn
    rcases Nat.lt_succ_iff_lt_or_eq.1 hlt with hlt | rfl
    · exact .inr ⟨⟨hlt, fun j f l r hj hjn => hall j f l r hj (by omega)⟩, hl, hr⟩
    · exact .inl rfl
  · rintro (rfl | ⟨⟨hlt, hall⟩, hl, hr⟩)
    · refine ⟨by omega, fun j f l r _ hj hnode => ?_⟩
      have hlj := (hjoin j f l r (by omega) hnode).left.1
      have hrj := (hjoin j f l r (by omega) hnode).right.1
      omega
    · refine ⟨by omega, fun j f' l' r' hkj hj hnode => ?_⟩
      rcases Nat.lt_succ_iff_lt_or_eq.1 hj with hj | rfl
      · exact hall j f' l' r' hkj hj hnode
      · cases hn.symm.trans hnode
        exact ⟨hl, hr⟩

/-! ## The invariant of the merge loop -/

/-- What holds in the merge loop over the table `es`, with the keys `live` left to merge: the leaves come first, every later
node joins the two least live nodes, the keys are those of the live nodes, and the live frequencies add up to the counts. -/
structure Merging (es : List FtEntry) (live : List Key) (arena : List Node) : Prop where
  size : arena.length + live.length = 2 * es.length
  leaves : ∀ i (h : i < es.length), nodeAt arena i = some (leafOf es[i])
  internal : ∀ n, es.length ≤ n → n < arena.length → ∃ f l r, nodeAt arena n = some (.internal f l r)
  joins : ∀ n f l r, nodeAt arena n = some (.internal f l r) → JoinsLeast arena es.length n f l r
  keys : ∀ x ∈ live, ∃ y, nodeAt arena x.index = some y ∧ y.freq = x.freq
  distinct : (live.map Key.index).Nodup
  isLive : ∀ m, LiveBefore arena es.length arena.length m ↔ m ∈ live.map Key.index
  total : (live.map fun x => x.freq.toNat).sum = (es.map fun e => e.cnt.toNat).sum

@[simp] theorem leafKeys_index (i : Nat) (es : List FtEntry) :
    (leafKeys i es).map Key.index = List.range' i es.length := by
  induction es generalizing i with
  | nil => rfl
  | cons e es ih => simp [leafKeys, ih, List.range'_succ]

@[simp] theorem leafKeys_length (i : Nat) (es : List FtEntry) : (leafKeys i es).length = es.length := by
  rw [← List.length_map (f := Key.index), leafKeys_index, List.length_range']

@[simp] theorem freq_leafOf (e : FtEntry) : (leafOf e).freq = e.cnt.setWidth 40 := rfl

/-- A count is the same number in 40 bits. -/
theorem toNat_widen (c : Word) : (c.setWidth 40).toNat = c.toNat := by
  rw [BitVec.toNat_setWidth_of_le (by omega)]

theorem leafKeys_total (i : Nat) (es : List FtEntry) :
    ((leafKeys i es).map fun x => x.freq.toNat).sum = (es.map fun e => e.cnt.toNat).sum := by
  induction es generalizing i with
  | nil => rfl
  | cons e es ih => simp only [leafKeys, List.map_cons, List.sum_cons, toNat_widen, ih]

/-- The key of a leaf is the key of its node. -/
theorem node_of_mem_leafKeys {i : Nat} {es : List FtEntry} {x : Key} (h : x ∈ leafKeys i es) :
    ∃ j, x.index = i + j ∧ ∃ e, es[j]? = some e ∧ x.freq = e.cnt.setWidth 40 := by
  induction es generalizing i with
  | nil => cases h
  | cons e es ih =>
    rcases List.mem_cons.1 h with rfl | h
    · exact ⟨0, rfl, e, rfl, rfl⟩
    · obtain ⟨j, hj, e', he', hf⟩ := ih h
      exact ⟨j + 1, by omega, e', he', hf⟩

namespace Merging

/-- Before the first merge, the leaves are the live nodes. -/
theorem init (es : List FtEntry) : Merging es (leafKeys 0 es) (es.map leafOf) where
  size := by
    rw [List.length_map, leafKeys_length]
    omega
  leaves i h := by simp [nodeAt, h]
  internal n hk hn := by
    rw [List.length_map] at hn
    omega
  joins n f l r h := by
    rw [nodeAt, List.getElem?_map, Option.map_eq_some_iff] at h
    obtain ⟨e, -, he⟩ := h
    cases he
  keys x hx := by
    obtain ⟨j, hj, e, he, hf⟩ := node_of_mem_leafKeys hx
    refine ⟨leafOf e, ?_, hf.symm⟩
    rw [hj, Nat.zero_add, nodeAt, List.getElem?_map, he]
    rfl
  distinct := by simp [List.nodup_range']
  isLive m := by
    rw [leafKeys_index, List.mem_range'_1, List.length_map]
    refine ⟨fun h => ⟨by omega, by simpa using h.1⟩, fun h => ⟨by simpa using h.2, fun j f l r hkj hj => by omega⟩⟩
  total := leafKeys_total 0 es

variable {es : List FtEntry} {live live' : List Key} {arena : List Node}

/-- The order of the live keys does not matter. -/
theorem perm (h : Merging es live arena) (hp : live.Perm live') : Merging es live' arena where
  size := hp.length_eq ▸ h.size
  leaves := h.leaves
  internal := h.internal
  joins := h.joins
  keys x hx := h.keys x (hp.mem_iff.2 hx)
  distinct := (hp.map _).nodup_iff.1 h.distinct
  isLive m := (h.isLive m).trans (hp.map _).mem_iff
  total := (hp.map _).sum_eq.symm.trans h.total

/-- Of two live keys, one is below the other when the other is not less. -/
theorem keyBelow (h : Merging es live arena) {a b : Key} (ha : a ∈ live) (hb : b ∈ live) (hne : a.index ≠ b.index)
    (hless : b.less a = false) : KeyBelow arena a.index b.index := by
  obtain ⟨x, hx, hxa⟩ := h.keys a ha
  obtain ⟨y, hy, hyb⟩ := h.keys b hb
  refine ⟨x, y, hx, hy, ?_⟩
  rw [← Bool.not_eq_true, less_iff] at hless
  rw [hxa, hyb, ← BitVec.toNat_inj]
  omega

/-- The arena holds at least the leaves. -/
theorem le_length (h : Merging es live arena) : es.length ≤ arena.length := by
  by_contra hlt
  exact absurd (lt_of_nodeAt (h.leaves arena.length (by omega))) (lt_irrefl _)

/-- Live nodes are nodes of the arena. -/
theorem index_lt (h : Merging es live arena) {a : Key} (ha : a ∈ live) : a.index < arena.length := by
  obtain ⟨x, hx, -⟩ := h.keys a ha
  exact lt_of_nodeAt hx

end Merging

/-- 256 counts add up to less than 2^40 (00_scope.md R12). -/
theorem sum_counts_lt {es : List FtEntry} (h : es.length ≤ 256) : (es.map fun e => e.cnt.toNat).sum < 2 ^ 40 := by
  have hle : (es.map fun e => e.cnt.toNat).sum ≤ (es.map fun e => e.cnt.toNat).length • (2 ^ 32 - 1) := by
    refine List.sum_le_card_nsmul _ _ fun c hc => ?_
    obtain ⟨e, -, rfl⟩ := List.mem_map.1 hc
    have := e.cnt.isLt
    omega
  rw [List.length_map, smul_eq_mul] at hle
  omega

/-- The node that joins the nodes of the keys a and b. -/
def parentOf (a b : Key) : Node :=
  .internal (a.freq + b.freq) (BitVec.ofNat 9 a.index) (BitVec.ofNat 9 b.index)

/-- The key of the node that joins the nodes of the keys a and b, made next. -/
def parentKey (arena : List Node) (a b : Key) : Key := ⟨a.freq + b.freq, arena.length⟩

namespace Merging

variable {es : List FtEntry} {a b : Key} {rest : List Key} {arena : List Node}

/-- The two keys to merge and the rest have distinct indices. -/
theorem distinct_pair (h : Merging es (a :: b :: rest) arena) :
    a.index ≠ b.index ∧ a.index ∉ rest.map Key.index ∧ b.index ∉ rest.map Key.index ∧ (rest.map Key.index).Nodup := by
  have hdist := h.distinct
  simp only [List.map_cons, List.nodup_cons, List.mem_cons, not_or] at hdist
  obtain ⟨⟨hab, har⟩, hbr, hrest⟩ := hdist
  exact ⟨hab, har, hbr, hrest⟩

section
variable (h : Merging es (a :: b :: rest) arena) (hes : es.length ≤ 256)
include h hes

/-- The index of a node that is merged fits the 9 bits of a child field. -/
theorem index_toNat {x : Key} (hx : x ∈ a :: b :: rest) : (BitVec.ofNat 9 x.index).toNat = x.index := by
  have hlt := h.index_lt hx
  have hsize := h.size
  rw [List.length_cons, List.length_cons] at hsize
  rw [BitVec.toNat_ofNat, Nat.mod_eq_of_lt (by omega)]

/-- The frequency of the new node does not overflow (00_scope.md R12). -/
theorem freq_toNat : (a.freq + b.freq).toNat = a.freq.toNat + b.freq.toNat := by
  have htotal := h.total
  have hlt := sum_counts_lt hes
  rw [List.map_cons, List.map_cons, List.sum_cons, List.sum_cons] at htotal
  rw [BitVec.toNat_add, Nat.mod_eq_of_lt (by omega)]

variable (ha : ∀ z ∈ b :: rest, z.less a = false) (hb : ∀ z ∈ rest, z.less b = false)
include ha hb

/-- The new node joins the two least live nodes. -/
theorem joinsLeast_parentOf :
    JoinsLeast arena es.length arena.length (a.freq + b.freq) (BitVec.ofNat 9 a.index) (BitVec.ofNat 9 b.index) := by
  obtain ⟨hab, -, -, -⟩ := h.distinct_pair
  obtain ⟨x, hx, hxa⟩ := h.keys a (by simp)
  obtain ⟨y, hy, hyb⟩ := h.keys b (by simp)
  have la := h.index_toNat hes (x := a) (by simp)
  have lb := h.index_toNat hes (x := b) (by simp)
  constructor
  case left =>
    rw [la]
    exact (h.isLive _).2 (by simp)
  case right =>
    rw [lb]
    exact (h.isLive _).2 (by simp)
  case below =>
    rw [la, lb]
    exact h.keyBelow (by simp) (by simp) hab (ha b (by simp))
  case least =>
    intro m hm hma hmb
    rw [la] at hma
    rw [lb] at hmb ⊢
    obtain ⟨c, hc, rfl⟩ := List.mem_map.1 ((h.isLive m).1 hm)
    rcases List.mem_cons.1 hc with rfl | hcb
    · exact absurd rfl hma
    · rcases List.mem_cons.1 hcb with rfl | hcr
      · exact absurd rfl hmb
      · exact h.keyBelow (by simp) hc hmb.symm (hb c hcr)
  case freq => exact ⟨x, y, la.symm ▸ hx, lb.symm ▸ hy, by rw [h.freq_toNat hes, hxa, hyb]⟩

/-- One merge keeps the invariant. -/
theorem merge : Merging es (parentKey arena a b :: rest) (arena ++ [parentOf a b]) := by
  have hnew := h.joinsLeast_parentOf hes ha hb
  have hk := h.le_length
  have hlast : nodeAt (arena ++ [parentOf a b]) arena.length = some (parentOf a b) := nodeAt_append_length _
  have hjoins : ∀ n f l r, nodeAt (arena ++ [parentOf a b]) n = some (.internal f l r) →
      JoinsLeast (arena ++ [parentOf a b]) es.length n f l r := fun n f l r hn => by
    rcases Nat.lt_succ_iff_lt_or_eq.1 (by simpa using lt_of_nodeAt hn) with hlt | rfl
    · exact (h.joins n f l r (nodeAt_append_of_lt _ hlt ▸ hn)).append _ hlt.le
    · cases hlast.symm.trans hn
      exact hnew.append _ le_rfl
  obtain ⟨-, har, hbr, hrest⟩ := h.distinct_pair
  constructor
  case size =>
    have hsize := h.size
    simp only [List.length_cons, List.length_append, List.length_nil] at hsize ⊢
    omega
  case leaves => exact fun i hi => nodeAt_append_of_some _ (h.leaves i hi)
  case internal =>
    intro n hn hlt
    rcases Nat.lt_succ_iff_lt_or_eq.1 (by simpa using hlt) with hlt | rfl
    · obtain ⟨f, l, r, hnode⟩ := h.internal n hn hlt
      exact ⟨f, l, r, nodeAt_append_of_some _ hnode⟩
    · exact ⟨_, _, _, hlast⟩
  case joins => exact hjoins
  case keys =>
    refine List.forall_mem_cons.2 ⟨⟨_, hlast, rfl⟩, fun x hx => ?_⟩
    obtain ⟨y, hy, hf⟩ := h.keys x (by simp [hx])
    exact ⟨y, nodeAt_append_of_some _ hy, hf⟩
  case distinct =>
    rw [List.map_cons, List.nodup_cons]
    refine ⟨fun hm => ?_, hrest⟩
    obtain ⟨x, hx, hxi⟩ := List.mem_map.1 hm
    exact absurd hxi (h.index_lt (by simp [hx])).ne
  case isLive =>
    intro m
    rw [List.length_append, List.length_singleton,
      liveBefore_succ_iff (fun j f l r _ => hjoins j f l r) hk hlast, liveBefore_append _ le_rfl, h.isLive,
      h.index_toNat hes (x := a) (by simp), h.index_toNat hes (x := b) (by simp)]
    have hrest : m ∈ rest.map Key.index → m ≠ a.index ∧ m ≠ b.index :=
      fun hm => ⟨fun e => har (e ▸ hm), fun e => hbr (e ▸ hm)⟩
    simp only [List.map_cons, List.mem_cons, parentKey]
    tauto
  case total =>
    rw [← h.total]
    simp only [List.map_cons, List.sum_cons, parentKey, h.freq_toNat hes, Nat.add_assoc]

end

end Merging

/-! ## The loop -/

/-- A turn of the merge loop takes the least and then the next least key out of the live ones. -/
theorem mergeLoop_succ (fuel : Nat) (x y : Key) (ys : List Key) (arena : List Node) :
    ∃ a b rest, (a :: b :: rest).Perm (x :: y :: ys) ∧ (∀ z ∈ b :: rest, z.less a = false) ∧
      (∀ z ∈ rest, z.less b = false) ∧
      mergeLoop (fuel + 1) x (y :: ys) arena = mergeLoop fuel (parentKey arena a b) rest (arena ++ [parentOf a b]) := by
  have hperm := popLeast_perm x (y :: ys)
  have hleast := popLeast_least x (y :: ys)
  cases hpop : popLeast x (y :: ys) with
  | mk a others =>
    rw [hpop] at hperm hleast
    cases others with
    | nil => simpa using hperm.length_eq
    | cons z zs =>
      have hperm' := popLeast_perm z zs
      refine ⟨a, (popLeast z zs).1, (popLeast z zs).2, (hperm'.cons a).trans hperm, fun w hw => ?_,
        popLeast_least z zs, ?_⟩
      · exact hleast w (hperm'.mem_iff.1 hw)
      · simp only [mergeLoop, hpop, parentKey, parentOf]

/-- The merge loop ends with one live node. -/
theorem merging_mergeLoop {es : List FtEntry} (hes : es.length ≤ 256) {x : Key} {live : List Key} {arena : List Node}
    (h : Merging es (x :: live) arena) :
    Merging es [(mergeLoop live.length x live arena).1] (mergeLoop live.length x live arena).2 := by
  generalize hfuel : live.length = fuel
  induction fuel generalizing x live arena with
  | zero =>
    cases List.length_eq_zero_iff.1 hfuel
    exact h
  | succ fuel ih =>
    cases live with
    | nil => cases hfuel
    | cons y ys =>
      obtain ⟨a, b, rest, hperm, ha, hb, hloop⟩ := mergeLoop_succ fuel x y ys arena
      have hlen := hperm.length_eq
      simp only [List.length_cons] at hlen hfuel
      rw [hloop]
      exact ih ((h.perm hperm.symm).merge hes ha hb) (by omega)

/-- The tree of a valid table is what the merge loop ends with. -/
theorem merging_buildArena {es : List FtEntry} (h : ValidTable es) :
    ∃ x : Key, x.index = (buildArena es).1 ∧ Merging es [x] (buildArena es).2 := by
  have hinit := Merging.init es
  unfold buildArena
  cases hkeys : leafKeys 0 es with
  | nil =>
    have := leafKeys_length 0 es
    rw [hkeys] at this
    exact absurd (List.length_eq_zero_iff.1 this.symm) h.nonempty
  | cons k ks =>
    rw [hkeys] at hinit
    exact ⟨_, rfl, merging_mergeLoop h.bounded hinit⟩

end Sys2Proof.Machine
end

section
/-! PROOFS. The shape of a finished tree (40_tree_builder.md R104, R107): its root, its size, the parents of its nodes. -/

namespace Sys2Proof.Machine

namespace Merging

variable {es : List FtEntry} {live : List Key} {x : Key} {arena : List Node} {j j' n : Nat} {f : BitVec 40} {l r : BitVec 9}

/-! ## Internal nodes and their children -/

/-- The nodes before the first internal one are the leaves. -/
theorem le_of_internal (h : Merging es live arena) (hn : nodeAt arena n = some (.internal f l r)) : es.length ≤ n := by
  by_contra hlt
  cases (h.leaves n (by omega)).symm.trans hn

/-- Children come before their parent and differ (40_tree_builder.md R104). -/
theorem children (h : Merging es live arena) (hn : nodeAt arena n = some (.internal f l r)) :
    l.toNat < n ∧ r.toNat < n ∧ l.toNat ≠ r.toNat :=
  have hjoin := h.joins n f l r hn
  ⟨hjoin.left.1, hjoin.right.1, hjoin.below.ne⟩

/-- The leaves are the first nodes. -/
theorem lt_of_leaf {c : Byte} (h : Merging es live arena) (hn : nodeAt arena n = some (.leaf c f)) : n < es.length := by
  by_contra hge
  obtain ⟨f', l, r, hint⟩ := h.internal n (by omega) (lt_of_nodeAt hn)
  cases hint.symm.trans hn

theorem lt_of_isChild (h : Merging es live arena) (hc : IsChild arena j n) : n < j := by
  obtain ⟨f, l, r, hj, rfl | rfl⟩ := hc
  · exact (h.children hj).1
  · exact (h.children hj).2.1

/-- A node that is a child is no longer live, so no later node joins it. -/
theorem not_isChild_of_lt (h : Merging es live arena) (hc : IsChild arena j n) (hlt : j < j') : ¬ IsChild arena j' n := by
  obtain ⟨f, l, r, hj, hn⟩ := hc
  rintro ⟨f', l', r', hj', hn'⟩
  have hjoin := h.joins j' f' l' r' hj'
  have hlive : LiveBefore arena es.length j' n := by
    rcases hn' with rfl | rfl
    · exact hjoin.left
    · exact hjoin.right
  obtain ⟨hl, hr⟩ := hlive.2 j f l r (h.le_of_internal hj) hlt hj
  rcases hn with rfl | rfl
  · exact hl rfl
  · exact hr rfl

/-- A node is the child of at most one node (40_tree_builder.md R104). -/
theorem parent_unique (h : Merging es live arena) (hc : IsChild arena j n) (hc' : IsChild arena j' n) : j' = j := by
  rcases Nat.lt_trichotomy j j' with hlt | rfl | hlt
  · exact absurd hc' (h.not_isChild_of_lt hc hlt)
  · rfl
  · exact absurd hc (h.not_isChild_of_lt hc' hlt)

/-! ## The root -/

/-- The last node is live at the end, and so it is the root. -/
theorem root_index (h : Merging es [x] arena) : x.index + 1 = arena.length := by
  have hsize := h.size
  rw [List.length_singleton] at hsize
  have hlast : LiveBefore arena es.length arena.length (arena.length - 1) := by
    refine ⟨by omega, fun j f l r _ hj hnode => ?_⟩
    have := h.children hnode
    omega
  have := (h.isLive _).1 hlast
  rw [List.map_singleton, List.mem_singleton] at this
  omega

/-- Every node but the root is a child (40_tree_builder.md R104). -/
theorem exists_parent (h : Merging es [x] arena) (hn : n < arena.length) (hne : n ≠ x.index) :
    ∃ j, IsChild arena j n := by
  by_contra hno
  have hlive : LiveBefore arena es.length arena.length n := ⟨hn, fun j f l r _ _ hj =>
    ⟨fun e => hno ⟨j, f, l, r, hj, .inl e.symm⟩, fun e => hno ⟨j, f, l, r, hj, .inr e.symm⟩⟩⟩
  exact hne (by simpa using (h.isLive n).1 hlive)

end Merging

/-! ## ARENA, ROOT and NODE_COUNT -/

namespace HoldsTree

variable {es : List FtEntry} {s : State}

theorem merging (h : HoldsTree es s) : ∃ x, Merging es [x] s.arena ∧ s.root.toNat = x.index := by
  obtain ⟨x, hx, hm⟩ := merging_buildArena h.table
  rw [← h.arena] at hm
  refine ⟨x, hm, ?_⟩
  have hroot := hm.root_index
  have hsize := hm.size
  have hes : es.length ≤ 256 := h.table.bounded
  rw [List.length_singleton] at hsize
  rw [h.root, ← hx, BitVec.toNat_ofNat, Nat.mod_eq_of_lt (by omega)]

/-- The tree of k leaves has 2k−1 nodes (40_tree_builder.md R104). -/
theorem arena_length (h : HoldsTree es s) : s.arena.length + 1 = 2 * es.length := by
  obtain ⟨x, hm, -⟩ := h.merging
  exact hm.size

theorem nodeCount_toNat (h : HoldsTree es s) : s.nodeCount.toNat = s.arena.length := by
  have hlen := h.arena_length
  have hes : es.length ≤ 256 := h.table.bounded
  rw [h.nodeCount, ← h.arena, BitVec.toNat_ofNat, Nat.mod_eq_of_lt (by omega)]

theorem root_toNat (h : HoldsTree es s) : s.root.toNat + 1 = s.arena.length := by
  obtain ⟨x, hm, hx⟩ := h.merging
  rw [hx, hm.root_index]

end HoldsTree

/-- A symbol stands in one entry of the table. -/
theorem index_unique {es : List FtEntry} (hdist : (es.map FtEntry.sym).Nodup) {i j : Nat} {hi : i < es.length}
    {hj : j < es.length} (h : es[i].sym = es[j].sym) : i = j :=
  (hdist.getElem_inj_iff (hi := by simpa) (hj := by simpa)).1 (by simpa using h)

@[simp] theorem ftEntries_getElem (ft : List (Nat × FtEntry)) (k i : Nat) (h : i < (ftEntries ft k).length) :
    (ftEntries ft k)[i] = ftAt ft i := by
  simp [ftEntries]

/-- Settles O25, from the invariant at the end of the merge loop. -/
theorem arenaLayout : Obligations.ArenaLayout := by
  intro s t h
  have htree := holdsTree_of_succeeds h
  obtain ⟨x, hm, hx⟩ := htree.merging
  have hlen := htree.arena_length
  have hcount := htree.nodeCount_toNat
  have hroot := htree.root_toNat
  rw [ftEntries_length] at hlen
  refine ⟨fun i hi => ?_, fun hk => ⟨by omega, fun n hn hle => ?_⟩, by omega, by omega, by omega, fun n hn => ?_,
    fun n f l r hn => ?_, fun n hn hne => ?_⟩
  · rw [hm.leaves i (by simpa using hi), ftEntries_getElem, leafOf, BitVec.ofNat_toNat]
  · exact hm.internal n (by simpa using hn) (by omega)
  · exact List.getElem?_eq_none (hcount ▸ hn)
  · obtain ⟨hl, hr, hlr⟩ := hm.children hn
    exact ⟨hl, hr, fun e => hlr (congrArg BitVec.toNat e)⟩
  · obtain ⟨j, hj⟩ := hm.exists_parent (hcount ▸ hn) (hx ▸ hne)
    exact ⟨j, hj, fun j' hj' => hm.parent_unique hj hj'⟩

/-- Settles O26, the merge rule of the invariant. -/
theorem mergesTheTwoLeastNodes : Obligations.MergesTheTwoLeastNodes := by
  intro s t h n f l r hn
  obtain ⟨x, hm, -⟩ := (holdsTree_of_succeeds h).merging
  have hjoin := hm.joins n f l r hn
  rw [ftEntries_length] at hjoin
  exact ⟨hjoin.left, hjoin.right, hjoin.below, hjoin.least, hjoin.freq⟩

/-- Settles O27: the live frequencies add up to the counts, and at the end the root is the one live node. -/
theorem rootFrequencyIsTheSumOfCounts : Obligations.RootFrequencyIsTheSumOfCounts := by
  intro s t h
  obtain ⟨x, hm, hx⟩ := (holdsTree_of_succeeds h).merging
  constructor
  · obtain ⟨y, hy, hf⟩ := hm.keys x (List.mem_singleton_self x)
    refine ⟨y, hx ▸ hy, ?_⟩
    rw [hf, ← hm.total, List.map_singleton, List.sum_singleton]
  · intro n f l r c y hn hc hy
    obtain ⟨a, b, ha, hb, hf⟩ := (hm.joins n f l r hn).freq
    rcases hc with rfl | rfl
    · cases ha.symm.trans hy
      omega
    · cases hb.symm.trans hy
      omega

end Sys2Proof.Machine
end

section
/-! PROOFS. Lengths of codes of which no word begins another: Kraft's inequality, and why two least weights may share the
greatest length. -/

namespace Sys2Proof.Machine

open InformationTheory

/-! ## Kraft's inequality -/

/-- A code none of whose words is empty or begins another is uniquely decodable. -/
theorem uniquelyDecodable_of_prefixFree {S : Set (List Bool)} (hnil : [] ∉ S)
    (hfree : ∀ u ∈ S, ∀ v ∈ S, u <+: v → u = v) : UniquelyDecodable S := by
  intro L₁
  have empty_of_flatten (L : List (List Bool)) (h : ∀ w ∈ L, w ∈ S) (hL : L.flatten = []) : L = [] :=
    List.eq_nil_iff_forall_not_mem.2 fun w hw => hnil (List.flatten_eq_nil_iff.1 hL w hw ▸ h w hw)
  induction L₁ with
  | nil => exact fun L₂ _ h₂ h => (empty_of_flatten L₂ h₂ h.symm).symm
  | cons u L₁ ih =>
    intro L₂ h₁ h₂ h
    cases L₂ with
    | nil => exact empty_of_flatten _ h₁ h
    | cons v L₂ =>
      obtain ⟨hu, h₁⟩ := List.forall_mem_cons.1 h₁
      have hv := h₂ v List.mem_cons_self
      rw [List.flatten_cons, List.flatten_cons] at h
      have huv : u = v := by
        rcases List.prefix_or_prefix_of_prefix (List.prefix_append u _) (h ▸ List.prefix_append v _) with hp | hp
        · exact hfree u hu v hv hp
        · exact (hfree v hv u hu hp).symm
      subst huv
      rw [ih L₂ h₁ (fun w hw => h₂ w (List.mem_cons_of_mem u hw)) (List.append_cancel_left h)]

section
variable {ι : Type} (S : Finset ι)

/-- The Kraft sum of lengths d: Σ 2^(−d). -/
noncomputable def kraft (d : ι → ℕ) : ℝ := ∑ i ∈ S, (1 / 2) ^ d i

/-- The weighted sum of lengths d: Σ w · d. -/
def cost (w d : ι → ℕ) : ℕ := ∑ i ∈ S, w i * d i

/-- Kraft's inequality for the code words of two or more symbols, none of which begins another. -/
theorem kraft_le_one [DecidableEq ι] (code : ι → List Bool) (hS : 1 < S.card)
    (hfree : ∀ i ∈ S, ∀ j ∈ S, i ≠ j → ¬ Comparable (code i) (code j)) : kraft S (fun i => (code i).length) ≤ 1 := by
  have hinj : ∀ i ∈ S, ∀ j ∈ S, code i <+: code j → i = j := fun i hi j hj hp =>
    by_contra fun hne => hfree i hi j hj hne (.inl hp)
  have hud : UniquelyDecodable ((S.image code : Finset (List Bool)) : Set (List Bool)) := by
    refine uniquelyDecodable_of_prefixFree ?_ ?_
    · intro hnil
      obtain ⟨i, hi, hnil⟩ := Finset.mem_image.1 (Finset.mem_coe.1 hnil)
      obtain ⟨j, hj, hne⟩ := Finset.exists_mem_ne hS i
      exact hne (hinj i hi j hj (hnil ▸ List.nil_prefix)).symm
    · simp only [Finset.coe_image, Set.forall_mem_image]
      exact fun i hi j hj hp => congrArg code (hinj i hi j hj hp)
  have hsum := kraft_mcmillan_inequality hud
  have hinjOn : Set.InjOn code S := fun i hi j hj e => hinj i hi j hj (e ▸ List.prefix_rfl)
  rw [Finset.sum_image hinjOn] at hsum
  simpa [kraft] using hsum

/-! ## Exchanging lengths -/

variable {S} [DecidableEq ι] {w d : ι → ℕ} {a b m : ι}

theorem add_cost_erase (w d : ι → ℕ) (ha : a ∈ S) : w a * d a + cost (S.erase a) w d = cost S w d :=
  Finset.add_sum_erase S (fun i => w i * d i) ha

theorem add_kraft_erase (d : ι → ℕ) (ha : a ∈ S) : (1 / 2) ^ d a + kraft (S.erase a) d = kraft S d :=
  Finset.add_sum_erase S (fun i => (1 / 2 : ℝ) ^ d i) ha

theorem cost_insert (w d : ι → ℕ) (ha : a ∉ S) : cost (insert a S) w d = w a * d a + cost S w d :=
  Finset.sum_insert ha

theorem cost_insert_update (w d : ι → ℕ) (c : ℕ) (ha : a ∉ S) :
    cost (insert a S) w (Function.update d a c) = w a * c + cost S w d := by
  rw [cost_insert _ _ ha, Function.update_self, cost, cost,
    Finset.sum_congr rfl fun i hi => by rw [Function.update_of_ne (ne_of_mem_of_not_mem hi ha)]]

theorem kraft_insert_update (d : ι → ℕ) (c : ℕ) (ha : a ∉ S) :
    kraft (insert a S) (Function.update d a c) = (1 / 2) ^ c + kraft S d := by
  rw [kraft, kraft, Finset.sum_insert ha, Function.update_self,
    Finset.sum_congr rfl fun i hi => by rw [Function.update_of_ne (ne_of_mem_of_not_mem hi ha)]]

theorem kraft_swap (d : ι → ℕ) (ha : a ∈ S) (hm : m ∈ S) : kraft S (d ∘ Equiv.swap a m) = kraft S d := by
  refine Equiv.Perm.sum_comp (Equiv.swap a m) S (fun i => (1 / 2 : ℝ) ^ d i) fun i hi => ?_
  by_contra hiS
  exact hi (Equiv.swap_apply_of_ne_of_ne (fun e => hiS (e ▸ ha)) (fun e => hiS (e ▸ hm)))

/-- Giving the greater length to the smaller weight costs no more. -/
theorem cost_swap_le (ha : a ∈ S) (hm : m ∈ S) (hw : w a ≤ w m) (hd : d a ≤ d m) :
    cost S w (d ∘ Equiv.swap a m) ≤ cost S w d := by
  rcases eq_or_ne m a with rfl | hne
  · simp
  · have hm' : m ∈ S.erase a := Finset.mem_erase.2 ⟨hne, hm⟩
    have hrest : cost ((S.erase a).erase m) w (d ∘ Equiv.swap a m) = cost ((S.erase a).erase m) w d :=
      Finset.sum_congr rfl fun i hi => by
        obtain ⟨him, hi⟩ := Finset.mem_erase.1 hi
        rw [Function.comp_apply, Equiv.swap_apply_of_ne_of_ne (Finset.mem_erase.1 hi).1 him]
    rw [← add_cost_erase w d ha, ← add_cost_erase w d hm', ← add_cost_erase w _ ha, ← add_cost_erase w _ hm', hrest]
    simp only [Function.comp_apply, Equiv.swap_apply_left, Equiv.swap_apply_right]
    have := mul_add_mul_le_mul_add_mul hw hd
    omega

/-- Where the other lengths are at most M, a greater length may be cut to M within Kraft's inequality. -/
theorem kraft_cut (ha : a ∈ S) {M : ℕ} (hM : ∀ i ∈ S.erase a, d i ≤ M) (hk : kraft S d ≤ 1) :
    (1 / 2) ^ M + kraft (S.erase a) d ≤ 1 := by
  have hscaled : kraft (S.erase a) d = ((∑ i ∈ S.erase a, 2 ^ (M - d i) : ℕ) : ℝ) * (1 / 2) ^ M := by
    rw [kraft, Nat.cast_sum, Finset.sum_mul]
    refine Finset.sum_congr rfl fun i hi => ?_
    have hsplit : (1 / 2 : ℝ) ^ M = (1 / 2) ^ (M - d i) * (1 / 2) ^ d i := by
      rw [← pow_add, Nat.sub_add_cancel (hM i hi)]
    rw [hsplit, ← mul_assoc, Nat.cast_pow, Nat.cast_ofNat, ← mul_pow]
    norm_num
  have hunit : (2 : ℝ) ^ M * (1 / 2) ^ M = 1 := by
    rw [← mul_pow]
    norm_num
  have hpos : (0 : ℝ) < (1 / 2) ^ M := by positivity
  have hposa : (0 : ℝ) < (1 / 2) ^ d a := by positivity
  rw [← add_kraft_erase d ha, hscaled] at hk
  rw [hscaled]
  have hlt : ∑ i ∈ S.erase a, 2 ^ (M - d i) < 2 ^ M := by
    have : ((∑ i ∈ S.erase a, 2 ^ (M - d i) : ℕ) : ℝ) < 2 ^ M := by nlinarith
    exact_mod_cast this
  have hle : ((∑ i ∈ S.erase a, 2 ^ (M - d i) : ℕ) : ℝ) + 1 ≤ 2 ^ M := by exact_mod_cast hlt
  nlinarith

/-- Some length is the greatest; exchanged with that of `a`, it bounds all of them. -/
theorem exists_swap_greatest (d : ι → ℕ) (ha : a ∈ S) :
    ∃ p ∈ S, d a ≤ d p ∧ ∀ i ∈ S, d (Equiv.swap a p i) ≤ d p := by
  obtain ⟨p, hp, hmax⟩ := S.exists_max_image d ⟨a, ha⟩
  refine ⟨p, hp, hmax a ha, fun i hi => hmax _ ?_⟩
  rw [Equiv.swap_apply_def]
  split_ifs
  · exact hp
  · exact ha
  · exact hi

/-- The lengths can be exchanged, at no greater cost, so that that of `a` is the greatest and that of `b` the next. -/
theorem exists_deepest (ha : a ∈ S) (hb : b ∈ S) (hab : a ≠ b) (hwa : ∀ m ∈ S, w a ≤ w m)
    (hwb : ∀ m ∈ S, m ≠ a → w b ≤ w m) (hk : kraft S d ≤ 1) :
    ∃ e : ι → ℕ, kraft S e ≤ 1 ∧ cost S w e ≤ cost S w d ∧ e b ≤ e a ∧ ∀ i ∈ S.erase a, e i ≤ e b := by
  obtain ⟨p, hp, hap, hpmax⟩ := exists_swap_greatest d ha
  obtain ⟨q, hq, hbq, hqmax⟩ := exists_swap_greatest (d ∘ Equiv.swap a p) (Finset.mem_erase.2 ⟨hab.symm, hb⟩)
  obtain ⟨hqa, hqS⟩ := Finset.mem_erase.1 hq
  refine ⟨(d ∘ Equiv.swap a p) ∘ Equiv.swap b q, ?_, ?_, ?_, fun i hi => ?_⟩
  · rwa [kraft_swap _ hb hqS, kraft_swap _ ha hp]
  · exact (cost_swap_le hb hqS (hwb q hqS hqa) hbq).trans (cost_swap_le ha hp (hwa p hp) hap)
  · simp only [Function.comp_apply, Equiv.swap_apply_left, Equiv.swap_apply_of_ne_of_ne hab hqa.symm]
    exact hpmax q hqS
  · simpa only [Function.comp_apply, Equiv.swap_apply_left] using hqmax i hi

/-- Two least weights can be merged: lengths of the others and a length c of the merged weight that cost less by the two
weights. -/
theorem exists_merged (ha : a ∈ S) (hb : b ∈ S) (hab : a ≠ b) (hw : w a ≤ w b)
    (hleast : ∀ m ∈ S, m ≠ a → m ≠ b → w b ≤ w m) (hk : kraft S d ≤ 1) :
    ∃ (e : ι → ℕ) (c : ℕ), (1 / 2) ^ c + kraft ((S.erase a).erase b) e ≤ 1 ∧
      (w a + w b) * (c + 1) + cost ((S.erase a).erase b) w e ≤ cost S w d := by
  have hwb : ∀ m ∈ S, m ≠ a → w b ≤ w m := fun m hm hma => by
    rcases eq_or_ne m b with rfl | hmb
    · exact le_rfl
    · exact hleast m hm hma hmb
  have hwa : ∀ m ∈ S, w a ≤ w m := fun m hm => by
    rcases eq_or_ne m a with rfl | hma
    · exact le_rfl
    · exact hw.trans (hwb m hm hma)
  obtain ⟨e, hke, hcost, heab, hmax⟩ := exists_deepest ha hb hab hwa hwb hk
  have hb' : b ∈ S.erase a := Finset.mem_erase.2 ⟨hab.symm, hb⟩
  have hcut := kraft_cut ha hmax hke
  rw [← add_kraft_erase e hb'] at hcut
  rw [← add_cost_erase w e ha, ← add_cost_erase w e hb'] at hcost
  have hnonneg : 0 ≤ kraft ((S.erase a).erase b) e := Finset.sum_nonneg fun i _ => by positivity
  cases hM : e b with
  | zero =>
    rw [hM] at hcut
    norm_num at hcut
    linarith
  | succ c =>
    refine ⟨e, c, ?_, ?_⟩
    · rw [hM, pow_succ] at hcut
      linarith
    · rw [hM] at hcost heab
      have := Nat.mul_le_mul_left (w a) heab
      rw [add_mul]
      omega

end

end Sys2Proof.Machine
end

section
/-! PROOFS. The paths of a finished tree (41_code_assigner.md R122): exactly one from the root to each node. -/

namespace Sys2Proof.Machine

/-! ## Edges and walks -/

/-- The child of node n that the edge label leads to: 0 for LEFT, 1 for RIGHT. -/
def childAt (arena : List Node) (n : Nat) (bit : Bool) : Option Nat :=
  match nodeAt arena n with
  | some (.internal _ l r) => some (if bit then r.toNat else l.toNat)
  | _ => none

/-- The node that the edge labels lead to from node n. -/
def descend (arena : List Node) (n : Nat) (p : List Bool) : Option Nat := p.foldlM (childAt arena) n

section
variable {arena : List Node} {n i : Nat} {bit : Bool} {p : List Bool} {c : Byte} {f : BitVec 40} {l r : BitVec 9}

theorem childAt_internal (h : nodeAt arena n = some (.internal f l r)) :
    childAt arena n bit = some (if bit then r.toNat else l.toNat) := by
  simp [childAt, h]

theorem childAt_eq_some_iff :
    childAt arena n bit = some i ↔
      ∃ f l r, nodeAt arena n = some (.internal f l r) ∧ (if bit then r.toNat else l.toNat) = i := by
  constructor
  · intro h
    unfold childAt at h
    split at h
    · next f l r hn => exact ⟨f, l, r, hn, Option.some.inj h⟩
    · cases h
  · rintro ⟨f, l, r, hn, rfl⟩
    exact childAt_internal hn

theorem isChild_iff : IsChild arena n i ↔ ∃ bit, childAt arena n bit = some i := by
  constructor
  · rintro ⟨f, l, r, hn, rfl | rfl⟩
    · exact ⟨false, childAt_internal hn⟩
    · exact ⟨true, childAt_internal hn⟩
  · rintro ⟨bit, h⟩
    obtain ⟨f, l, r, hn, rfl⟩ := childAt_eq_some_iff.1 h
    cases bit with
    | false => exact ⟨f, l, r, hn, .inl rfl⟩
    | true => exact ⟨f, l, r, hn, .inr rfl⟩

@[simp] theorem descend_nil : descend arena n [] = some n := rfl

theorem descend_cons : descend arena n (bit :: p) = (childAt arena n bit).bind fun m => descend arena m p := by
  rw [descend, List.foldlM_cons]
  rfl

theorem descend_append (p q : List Bool) :
    descend arena n (p ++ q) = (descend arena n p).bind fun m => descend arena m q := by
  rw [descend, List.foldlM_append]
  rfl

theorem descend_concat_eq_some_iff :
    descend arena n (p ++ [bit]) = some i ↔ ∃ j, descend arena n p = some j ∧ childAt arena j bit = some i := by
  simp [descend_append, descend_cons, Option.bind_eq_some_iff]

/-- A path to a symbol is a walk down to a leaf of it. -/
theorem pathTo_iff : PathTo arena n p c ↔ ∃ i f, descend arena n p = some i ∧ nodeAt arena i = some (.leaf c f) := by
  constructor
  · intro h
    induction h with
    | leaf h => exact ⟨_, _, rfl, h⟩
    | left h _ ih => simpa [descend_cons, childAt_internal h] using ih
    | right h _ ih => simpa [descend_cons, childAt_internal h] using ih
  · rintro ⟨i, f, hp, hi⟩
    induction p generalizing n with
    | nil =>
      cases hp
      exact .leaf hi
    | cons bit p ih =>
      rw [descend_cons, Option.bind_eq_some_iff] at hp
      obtain ⟨m, hm, hp⟩ := hp
      obtain ⟨f', l, r, hn, rfl⟩ := childAt_eq_some_iff.1 hm
      cases bit with
      | false => exact .left hn (ih hp)
      | true => exact .right hn (ih hp)

/-- No walk goes on from a leaf. -/
theorem descend_leaf (hn : nodeAt arena n = some (.leaf c f)) (h : descend arena n p = some i) : p = [] := by
  cases p with
  | nil => rfl
  | cons bit p => simp [descend_cons, childAt, hn] at h

end

/-! ## From the root to each node -/

open Classical in
/-- The edge labels from the root to node n. -/
noncomputable def pathOf (arena : List Node) (root n : Nat) : List Bool :=
  if h : ∃ p, descend arena root p = some n then h.choose else []

namespace Merging

variable {es : List FtEntry} {x : Key} {arena : List Node} {n j : Nat} {bit bit' : Bool} {p q : List Bool}

/-- The two children of a node differ, so a child knows its edge label. -/
theorem bit_unique {live : List Key} (h : Merging es live arena) (hb : childAt arena j bit = some n)
    (hb' : childAt arena j bit' = some n) : bit = bit' := by
  obtain ⟨f, l, r, hj, rfl⟩ := childAt_eq_some_iff.1 hb
  rw [childAt_internal hj, Option.some.injEq] at hb'
  obtain ⟨-, -, hlr⟩ := h.children hj
  cases bit with
  | false =>
    cases bit' with
    | false => rfl
    | true => exact absurd hb'.symm hlr
  | true =>
    cases bit' with
    | false => exact absurd hb' hlr
    | true => rfl

/-- The root is no child. -/
theorem not_isChild_root (h : Merging es [x] arena) : ¬ IsChild arena j x.index := by
  intro hc
  have hlt := h.lt_of_isChild hc
  obtain ⟨f, l, r, hj, -⟩ := hc
  have := lt_of_nodeAt hj
  have := h.root_index
  omega

/-- At most one walk leads from the root to a node. -/
theorem descend_unique (h : Merging es [x] arena) (hp : descend arena x.index p = some n)
    (hq : descend arena x.index q = some n) : p = q := by
  have no_return {p : List Bool} {bit : Bool} (hp : descend arena x.index (p ++ [bit]) = some x.index) : False := by
    obtain ⟨j, -, hj⟩ := descend_concat_eq_some_iff.1 hp
    exact h.not_isChild_root (isChild_iff.2 ⟨bit, hj⟩)
  induction p using List.reverseRecOn generalizing q n with
  | nil =>
    cases hp
    rcases List.eq_nil_or_concat q with rfl | ⟨q, bit, rfl⟩
    · rfl
    · exact (no_return (by simpa using hq)).elim
  | append_singleton p bit ih =>
    rcases List.eq_nil_or_concat q with rfl | ⟨q, bit', rfl⟩
    · cases hq
      exact (no_return hp).elim
    · rw [List.concat_eq_append] at hq ⊢
      obtain ⟨j, hj, hb⟩ := descend_concat_eq_some_iff.1 hp
      obtain ⟨j', hj', hb'⟩ := descend_concat_eq_some_iff.1 hq
      obtain rfl := h.parent_unique (isChild_iff.2 ⟨_, hb⟩) (isChild_iff.2 ⟨_, hb'⟩)
      rw [ih hj hj', h.bit_unique hb hb']

/-- Some walk leads from the root to each node: through its parent, which comes later in the arena. -/
theorem exists_descend (h : Merging es [x] arena) (hn : n < arena.length) : ∃ p, descend arena x.index p = some n := by
  obtain ⟨d, hd⟩ := Nat.exists_eq_add_of_lt hn
  induction d using Nat.strong_induction_on generalizing n with
  | _ d ih =>
    by_cases hroot : n = x.index
    · exact ⟨[], congrArg some hroot.symm⟩
    · obtain ⟨j, hc⟩ := h.exists_parent hn hroot
      have hlt := h.lt_of_isChild hc
      obtain ⟨bit, hb⟩ := isChild_iff.1 hc
      obtain ⟨f, l, r, hj, -⟩ := hc
      have hjlt := lt_of_nodeAt hj
      obtain ⟨p, hp⟩ := ih (arena.length - j - 1) (by omega) hjlt (by omega)
      exact ⟨p ++ [bit], descend_concat_eq_some_iff.2 ⟨j, hp, hb⟩⟩

/-- `pathOf` is the one walk from the root to a node. -/
theorem descend_iff (h : Merging es [x] arena) (hn : n < arena.length) :
    descend arena x.index p = some n ↔ p = pathOf arena x.index n := by
  have hex := h.exists_descend hn
  have hpath : descend arena x.index (pathOf arena x.index n) = some n := by
    rw [pathOf, dif_pos hex]
    exact hex.choose_spec
  exact ⟨fun hp => h.descend_unique hp hpath, fun e => e ▸ hpath⟩

theorem pathOf_root (h : Merging es [x] arena) : pathOf arena x.index x.index = [] :=
  have hroot := h.root_index
  ((h.descend_iff (by omega)).1 rfl).symm

theorem pathOf_child (h : Merging es [x] arena) (hb : childAt arena j bit = some n) :
    pathOf arena x.index n = pathOf arena x.index j ++ [bit] := by
  have hlt := h.lt_of_isChild (isChild_iff.2 ⟨bit, hb⟩)
  obtain ⟨f, l, r, hj, -⟩ := childAt_eq_some_iff.1 hb
  have hjlt := lt_of_nodeAt hj
  have hp := (h.descend_iff hjlt).2 rfl
  exact ((h.descend_iff (by omega)).1 (descend_concat_eq_some_iff.2 ⟨j, hp, hb⟩)).symm

/-- No path to a leaf begins another: no walk goes on from a leaf. -/
theorem eq_of_pathOf_prefix (h : Merging es [x] arena) {i : Nat} (hi : i < es.length) (hj : j < es.length)
    (hp : pathOf arena x.index i <+: pathOf arena x.index j) : i = j := by
  have hle := h.le_length
  obtain ⟨q, hq⟩ := hp
  have hwalk := (h.descend_iff (n := j) (by omega)).2 rfl
  rw [← hq, descend_append, (h.descend_iff (n := i) (by omega)).2 rfl, Option.bind_some] at hwalk
  cases descend_leaf (h.leaves i hi) hwalk
  exact Option.some.inj hwalk

end Merging

/-! ## From the root to each symbol -/

/-- The edge labels from the root to the leaf of a symbol of the table. -/
noncomputable def symbolPath (es : List FtEntry) (arena : List Node) (root : Nat) (c : Byte) : List Bool :=
  pathOf arena root ((es.map FtEntry.sym).idxOf c)

namespace Merging

variable {es : List FtEntry} {x : Key} {arena : List Node}

theorem symbolPath_getElem (hdist : (es.map FtEntry.sym).Nodup) (root : Nat) {i : Nat} (hi : i < es.length) :
    symbolPath es arena root es[i].sym = pathOf arena root i := by
  have := hdist.idxOf_getElem i (by simpa using hi)
  rw [List.getElem_map] at this
  rw [symbolPath, this]

/-- The tree has one path to each symbol of the table. -/
theorem pathTo_iff_eq_symbolPath (h : Merging es [x] arena) (hdist : (es.map FtEntry.sym).Nodup) {e : FtEntry}
    (he : e ∈ es) (p : List Bool) : PathTo arena x.index p e.sym ↔ p = symbolPath es arena x.index e.sym := by
  obtain ⟨i, hi, rfl⟩ := List.mem_iff_getElem.1 he
  have hle := h.le_length
  rw [symbolPath_getElem hdist _ hi, ← h.descend_iff (by omega), pathTo_iff]
  constructor
  · rintro ⟨j, f, hp, hj⟩
    have hjk := h.lt_of_leaf hj
    have hsym : es[j].sym = es[i].sym := by
      have hleaf := (h.leaves j hjk).symm.trans hj
      rw [leafOf, Option.some.injEq, Node.leaf.injEq] at hleaf
      exact hleaf.1
    rwa [← index_unique hdist hsym]
  · exact fun hp => ⟨i, _, hp, h.leaves i hi⟩

/-- No path to a symbol begins that to another. -/
theorem symbolPath_prefixFree (h : Merging es [x] arena) (hdist : (es.map FtEntry.sym).Nodup) {a b : FtEntry}
    (ha : a ∈ es) (hb : b ∈ es) (hne : a.sym ≠ b.sym) :
    ¬ Comparable (symbolPath es arena x.index a.sym) (symbolPath es arena x.index b.sym) := by
  obtain ⟨i, hi, rfl⟩ := List.mem_iff_getElem.1 ha
  obtain ⟨j, hj, rfl⟩ := List.mem_iff_getElem.1 hb
  rw [symbolPath_getElem hdist _ hi, symbolPath_getElem hdist _ hj]
  rintro (hp | hp)
  · cases h.eq_of_pathOf_prefix hi hj hp
    exact hne rfl
  · cases h.eq_of_pathOf_prefix hj hi hp
    exact hne rfl

end Merging

end Sys2Proof.Machine
end

section
/-! PROOFS. The tree is optimal (40_tree_builder.md R106): the depths of the live nodes cost least, from the last merge back to
the first. -/

namespace Sys2Proof.Machine

/-! ## Frequencies and live nodes -/

/-- The frequency of a node as a number, 0 where the node is EMPTY. -/
def nodeFreq (arena : List Node) (n : Nat) : Nat := ((nodeAt arena n).map fun y => y.freq.toNat).getD 0

theorem nodeFreq_of_some {arena : List Node} {n : Nat} {y : Node} (h : nodeAt arena n = some y) :
    nodeFreq arena n = y.freq.toNat := by
  simp [nodeFreq, h]

theorem KeyBelow.nodeFreq_le {arena : List Node} {a b : Nat} (h : KeyBelow arena a b) :
    nodeFreq arena a ≤ nodeFreq arena b := by
  obtain ⟨y, z, hy, hz, hlt⟩ := h
  rw [nodeFreq_of_some hy, nodeFreq_of_some hz]
  rcases hlt with hlt | ⟨heq, -⟩
  · exact hlt.le
  · rw [heq]

open Classical in
/-- The nodes that are live before node n is made, of k leaves. -/
noncomputable def liveSet (arena : List Node) (k n : Nat) : Finset Nat :=
  (Finset.range n).filter fun m => LiveBefore arena k n m

@[simp] theorem mem_liveSet {arena : List Node} {k n m : Nat} : m ∈ liveSet arena k n ↔ LiveBefore arena k n m := by
  simp only [liveSet, Finset.mem_filter, Finset.mem_range]
  exact and_iff_right_of_imp And.left

theorem liveSet_leaves (arena : List Node) (k : Nat) : liveSet arena k k = Finset.range k := by
  ext m
  rw [mem_liveSet, Finset.mem_range]
  exact ⟨And.left, fun h => ⟨h, fun j f l r hkj hj => by omega⟩⟩

/-- The lengths of the paths from the root. -/
noncomputable def depth (arena : List Node) (root n : Nat) : Nat := (pathOf arena root n).length

namespace Merging

variable {es : List FtEntry} {x : Key} {arena : List Node} {n : Nat} {f : BitVec 40} {l r : BitVec 9}

theorem nodeFreq_leaf {live : List Key} (h : Merging es live arena) {i : Nat} (hi : i < es.length) :
    nodeFreq arena i = es[i].cnt.toNat := by
  rw [nodeFreq_of_some (h.leaves i hi), freq_leafOf, toNat_widen]

theorem nodeFreq_internal {live : List Key} (h : Merging es live arena) (hn : nodeAt arena n = some (.internal f l r)) :
    nodeFreq arena n = nodeFreq arena l.toNat + nodeFreq arena r.toNat := by
  obtain ⟨y, z, hy, hz, hf⟩ := (h.joins n f l r hn).freq
  rw [nodeFreq_of_some hn, nodeFreq_of_some hy, nodeFreq_of_some hz, ← hf]
  rfl

/-- Node n takes the place of its children among the live nodes. -/
theorem liveSet_succ {live : List Key} (h : Merging es live arena) (hn : nodeAt arena n = some (.internal f l r)) :
    liveSet arena es.length (n + 1) = insert n (((liveSet arena es.length n).erase l.toNat).erase r.toNat) := by
  ext m
  rw [mem_liveSet, liveBefore_succ_iff (fun j f l r _ => h.joins j f l r) (h.le_of_internal hn) hn, Finset.mem_insert,
    Finset.mem_erase, Finset.mem_erase, mem_liveSet]
  tauto

theorem liveSet_root (h : Merging es [x] arena) : liveSet arena es.length arena.length = {x.index} := by
  ext m
  rw [mem_liveSet, h.isLive, Finset.mem_singleton, List.map_singleton, List.mem_singleton]

theorem depth_root (h : Merging es [x] arena) : depth arena x.index x.index = 0 := by
  rw [depth, h.pathOf_root, List.length_nil]

theorem depth_children (h : Merging es [x] arena) (hn : nodeAt arena n = some (.internal f l r)) :
    depth arena x.index l.toNat = depth arena x.index n + 1 ∧ depth arena x.index r.toNat = depth arena x.index n + 1 := by
  have hl := h.pathOf_child (childAt_internal (bit := false) hn)
  have hr := h.pathOf_child (childAt_internal (bit := true) hn)
  exact ⟨by simpa [depth] using congrArg List.length hl, by simpa [depth] using congrArg List.length hr⟩

/-! ## Optimality -/

/-- Node n is not among the nodes that were live before it. -/
theorem notMem_liveSet_erase {a b k : Nat} : n ∉ ((liveSet arena k n).erase a).erase b := fun hmem =>
  have hlive := mem_liveSet.1 (Finset.mem_of_mem_erase (Finset.mem_of_mem_erase hmem))
  absurd hlive.1 (lt_irrefl n)

/-- A merge takes one frequency of the new node off the cost of the depths. -/
theorem cost_depth_succ (h : Merging es [x] arena) (hn : nodeAt arena n = some (.internal f l r)) :
    cost (liveSet arena es.length n) (nodeFreq arena) (depth arena x.index) =
      nodeFreq arena n + cost (liveSet arena es.length (n + 1)) (nodeFreq arena) (depth arena x.index) := by
  have hjoin := h.joins n f l r hn
  obtain ⟨hl, hr⟩ := h.depth_children hn
  have hlmem : l.toNat ∈ liveSet arena es.length n := mem_liveSet.2 hjoin.left
  have hrmem : r.toNat ∈ (liveSet arena es.length n).erase l.toNat :=
    Finset.mem_erase.2 ⟨hjoin.below.ne.symm, mem_liveSet.2 hjoin.right⟩
  rw [← add_cost_erase _ _ hlmem, ← add_cost_erase _ _ hrmem, h.liveSet_succ hn, cost_insert _ _ notMem_liveSet_erase,
    hl, hr, h.nodeFreq_internal hn]
  ring

/-- Lengths within Kraft's inequality before a merge give such lengths after it that cost one frequency of the new node less. -/
theorem exists_lengths_succ {live : List Key} (h : Merging es live arena)
    (hn : nodeAt arena n = some (.internal f l r)) {d : ℕ → ℕ} (hd : kraft (liveSet arena es.length n) d ≤ 1) :
    ∃ e, kraft (liveSet arena es.length (n + 1)) e ≤ 1 ∧
      nodeFreq arena n + cost (liveSet arena es.length (n + 1)) (nodeFreq arena) e ≤
        cost (liveSet arena es.length n) (nodeFreq arena) d := by
  have hjoin := h.joins n f l r hn
  obtain ⟨e, c, hkraft, hcost⟩ := exists_merged (w := nodeFreq arena) (mem_liveSet.2 hjoin.left)
    (mem_liveSet.2 hjoin.right) hjoin.below.ne hjoin.below.nodeFreq_le
    (fun m hm hl hr => (hjoin.least m (mem_liveSet.1 hm) hl hr).nodeFreq_le) hd
  refine ⟨Function.update e n c, ?_, ?_⟩
  · rwa [h.liveSet_succ hn, kraft_insert_update _ _ notMem_liveSet_erase]
  · rw [h.liveSet_succ hn, cost_insert_update _ _ _ notMem_liveSet_erase, h.nodeFreq_internal hn]
    rw [mul_add, mul_one] at hcost
    omega

/-- No lengths within Kraft's inequality cost less, on the nodes live before node n, than their depths. -/
theorem cost_depth_le (h : Merging es [x] arena) (hk : es.length ≤ n) (hn : n ≤ arena.length) {d : ℕ → ℕ}
    (hd : kraft (liveSet arena es.length n) d ≤ 1) :
    cost (liveSet arena es.length n) (nodeFreq arena) (depth arena x.index) ≤
      cost (liveSet arena es.length n) (nodeFreq arena) d := by
  obtain ⟨t, ht⟩ := Nat.exists_eq_add_of_le hn
  induction t generalizing n d with
  | zero =>
    obtain rfl : n = arena.length := by omega
    rw [h.liveSet_root, cost, Finset.sum_singleton, h.depth_root]
    exact Nat.zero_le _
  | succ t ih =>
    obtain ⟨f, l, r, hnode⟩ := h.internal n hk (by omega)
    obtain ⟨e, hkraft, hcost⟩ := h.exists_lengths_succ hnode hd
    have hih := ih (n := n + 1) (by omega) (by omega) hkraft (by omega)
    rw [h.cost_depth_succ hnode]
    omega

/-- The weighted sum over the table's entries is the cost over their leaves. -/
theorem sum_entries {live : List Key} (h : Merging es live arena) (g : Byte → ℕ) (d : ℕ → ℕ)
    (hd : ∀ i (hi : i < es.length), d i = g es[i].sym) :
    (es.map fun e => e.cnt.toNat * g e.sym).sum = cost (Finset.range es.length) (nodeFreq arena) d := by
  rw [← Fin.sum_univ_fun_getElem, cost, Finset.sum_range]
  exact Finset.sum_congr rfl fun i _ => by rw [h.nodeFreq_leaf i.isLt, hd i i.isLt]

end Merging

/-- The symbol of entry i. -/
def symAt (es : List FtEntry) (i : Nat) : Byte := (es[i]?.map FtEntry.sym).getD 0

theorem symAt_eq (es : List FtEntry) {i : Nat} (hi : i < es.length) : symAt es i = es[i].sym := by
  simp [symAt, hi]

/-- A code of two or more symbols, of which no word begins another, has lengths within Kraft's inequality. -/
theorem kraft_code_le_one {es : List FtEntry} (hdist : (es.map FtEntry.sym).Nodup) (hk : 2 ≤ es.length)
    {code : Byte → List Bool}
    (hfree : ∀ a ∈ es, ∀ b ∈ es, a.sym ≠ b.sym → ¬ Comparable (code a.sym) (code b.sym)) :
    kraft (Finset.range es.length) (fun i => (code (symAt es i)).length) ≤ 1 := by
  refine kraft_le_one _ (fun i => code (symAt es i)) (by rwa [Finset.card_range]) fun i hi j hj hne => ?_
  rw [Finset.mem_range] at hi hj
  rw [symAt_eq es hi, symAt_eq es hj]
  exact hfree _ (List.getElem_mem hi) _ (List.getElem_mem hj) fun e => hne (index_unique hdist e)

/-- The paths to the symbols cost no more than any such code of two or more symbols. -/
theorem symbolPath_optimal {es : List FtEntry} {x : Key} {arena : List Node} (h : Merging es [x] arena)
    (hdist : (es.map FtEntry.sym).Nodup) (hk : 2 ≤ es.length) {code : Byte → List Bool}
    (hfree : ∀ a ∈ es, ∀ b ∈ es, a.sym ≠ b.sym → ¬ Comparable (code a.sym) (code b.sym)) :
    (es.map fun e => e.cnt.toNat * (symbolPath es arena x.index e.sym).length).sum ≤
      (es.map fun e => e.cnt.toNat * (code e.sym).length).sum := by
  have hopt := h.cost_depth_le le_rfl h.le_length (d := fun i => (code (symAt es i)).length)
    (by rw [liveSet_leaves]; exact kraft_code_le_one hdist hk hfree)
  rw [liveSet_leaves] at hopt
  rwa [h.sum_entries (fun c => (code c).length) (fun i => (code (symAt es i)).length)
      fun i hi => by rw [symAt_eq es hi],
    h.sum_entries (fun c => (symbolPath es arena x.index c).length) (depth arena x.index)
      fun i hi => by rw [Merging.symbolPath_getElem hdist _ hi, depth]]

/-- The path to the one symbol of a table of one entry is empty. -/
theorem symbolPath_single {es : List FtEntry} {x : Key} {arena : List Node} (h : Merging es [x] arena)
    (hdist : (es.map FtEntry.sym).Nodup) (hk : es.length = 1) {e : FtEntry} (he : e ∈ es) :
    symbolPath es arena x.index e.sym = [] := by
  obtain ⟨i, hi, rfl⟩ := List.mem_iff_getElem.1 he
  have hroot := h.root_index
  have hsize := h.size
  rw [List.length_singleton] at hsize
  obtain rfl : i = x.index := by omega
  rw [Merging.symbolPath_getElem hdist _ hi, h.pathOf_root]

/-- Settles O28: each symbol has the one path to its leaf, and by the merges, taken backwards, the depths cost
least. -/
theorem treeIsOptimal : Obligations.TreeIsOptimal := by
  intro s t h es prefixFree
  have htree := holdsTree_of_succeeds h
  have hdist := htree.table.distinct
  obtain ⟨x, hm, hx⟩ := htree.merging
  have hlen : es.length = s.ftLen.toNat := ftEntries_length _ _
  rw [hx]
  exact ⟨symbolPath es t.arena x.index, fun e he p => hm.pathTo_iff_eq_symbolPath hdist he p,
    fun a ha b hb hne => hm.symbolPath_prefixFree hdist ha hb hne,
    fun hk code hcode => symbolPath_optimal hm hdist (hk.trans_eq hlen.symm) hcode,
    fun hk e he => symbolPath_single hm hdist (hlen.trans hk) he⟩

end Sys2Proof.Machine
end

section
/-! PROOFS. The integer of a bit string, and the CodeTable entry that holds a bit string (41_code_assigner.md R122). -/

namespace Sys2Proof.Machine

theorem bitNat_le_one (b : Bool) : bitNat b ≤ 1 := by cases b <;> decide

theorem bitsValue_concat (p : List Bool) (b : Bool) : bitsValue (p ++ [b]) = 2 * bitsValue p + bitNat b := by
  induction p with
  | nil => simp [bitsValue]
  | cons a p ih =>
    rw [List.cons_append, bitsValue, ih, bitsValue, List.length_append, List.length_singleton, pow_succ]
    ring

theorem bitsValue_lt (p : List Bool) : bitsValue p < 2 ^ p.length := by
  induction p with
  | nil => simp [bitsValue]
  | cons b p ih =>
    have hb := Nat.mul_le_mul_right (2 ^ p.length) (bitNat_le_one b)
    rw [bitsValue, List.length_cons, pow_succ]
    omega

/-- The first bit of the string is the most significant one. -/
theorem testBit_bitsValue (p : List Bool) {j : Nat} (hj : j < p.length) :
    (bitsValue p).testBit (p.length - 1 - j) = p[j] := by
  induction p generalizing j with
  | nil => cases hj
  | cons b p ih =>
    rw [bitsValue, Nat.mul_comm, Nat.testBit_two_pow_mul_add _ (bitsValue_lt p)]
    cases j with
    | zero => cases b <;> simp [bitNat]
    | succ j =>
      rw [List.length_cons, Nat.succ_lt_succ_iff] at hj
      rw [if_pos (by simp only [List.length_cons]; omega), List.getElem_cons_succ, ← ih hj]
      congr 1
      simp only [List.length_cons]
      omega

/-- The entry that ASSIGN_CODES writes for a leaf at the end of path p: its length, and its integer. -/
def entryOfPath (p : List Bool) : CtEntry := ⟨true, BitVec.ofNat 6 p.length, BitVec.ofNat 32 (bitsValue p)⟩

section
variable {p : List Bool} (hp : p.length ≤ Config.maxCodeLen)
include hp

theorem entryOfPath_len : (entryOfPath p).len.toNat = p.length := by
  rw [Config.maxCodeLen] at hp
  rw [entryOfPath, BitVec.toNat_ofNat, Nat.mod_eq_of_lt (by omega)]

theorem entryOfPath_bits : (entryOfPath p).bits.toNat = bitsValue p := by
  have hlt := (bitsValue_lt p).trans_le (Nat.pow_le_pow_right (by decide) hp)
  rw [entryOfPath, BitVec.toNat_ofNat]
  exact Nat.mod_eq_of_lt hlt

/-- The bit string of the entry is the path. -/
theorem codeBits_entryOfPath : codeBits (entryOfPath p) = p := by
  refine List.ext_getElem (by rw [codeBits_length, entryOfPath_len hp]) fun j _ hj => ?_
  simp only [codeBits, List.getElem_map, List.getElem_range, entryOfPath_len hp, BitVec.getLsbD, entryOfPath_bits hp]
  exact testBit_bitsValue p hj

/-- The entry of a path of 1..32 edges is legal. -/
theorem legal_entryOfPath (hne : p ≠ []) : (entryOfPath p).illegal = false := by
  have hpos := List.length_pos_iff.2 hne
  have hlt := bitsValue_lt p
  simp only [CtEntry.illegal, entryOfPath_len hp, entryOfPath_bits hp, Bool.or_eq_false_iff, decide_eq_false_iff_not,
    Config.minCodeLen]
  omega

end

end Sys2Proof.Machine
end

section
/-! PROOFS. The walk of ASSIGN_CODES (41_code_assigner.md R121): it enters the paths to the leaves, in preorder. -/

namespace Sys2Proof.Machine

/-! ## The walk as a list of paths -/

/-- Enter the code of the leaf at the end of a path. -/
def setPath (ct : List (Nat × CtEntry)) (x : List Bool × Byte) : List (Nat × CtEntry) :=
  ctSet ct x.2 (entryOfPath x.1)

/-- Enter the code of the leaf at the end of a path, or report that it is too long (R124). -/
def enterPath (ct : List (Nat × CtEntry)) (x : List Bool × Byte) : Except WalkStop (List (Nat × CtEntry)) :=
  if x.1.length > Config.maxCodeLen then .error (.codeTooLong x.2) else .ok (setPath ct x)

/-- The leaves below node n, which the path q leads to, in preorder, with their paths from the start of q. -/
def pathsBelow (arena : List Node) (fuel n : Nat) (q : List Bool) : List (List Bool × Byte) :=
  (paths arena fuel n).map fun x => (q ++ x.1, x.2)

@[simp] theorem pathsBelow_nil (arena : List Node) (fuel n : Nat) :
    pathsBelow arena fuel n [] = paths arena fuel n := by
  simp [pathsBelow]

section
variable {arena : List Node} {n : Nat} {c : Byte} {f : BitVec 40} {l r : BitVec 9}

theorem pathsBelow_leaf (h : nodeAt arena n = some (.leaf c f)) (fuel : Nat) (q : List Bool) :
    pathsBelow arena (fuel + 1) n q = [(q, c)] := by
  simp [pathsBelow, paths, h]

theorem pathsBelow_internal (h : nodeAt arena n = some (.internal f l r)) (fuel : Nat) (q : List Bool) :
    pathsBelow arena (fuel + 1) n q =
      pathsBelow arena fuel l.toNat (q ++ [false]) ++ pathsBelow arena fuel r.toNat (q ++ [true]) := by
  simp [pathsBelow, paths, h, Function.comp_def]

/-- `visit` at a leaf. -/
theorem visit_leaf (h : nodeAt arena n = some (.leaf c f)) (fuel : Nat) (q : List Bool) (ct : List (Nat × CtEntry)) :
    visit arena (fuel + 1) n (bitsValue q) q.length ct = enterPath ct (q, c) := by
  simp [visit, h, enterPath, setPath, entryOfPath]

/-- `visit` at an internal node: its left subtree, then its right subtree. -/
theorem visit_internal (h : nodeAt arena n = some (.internal f l r)) (fuel : Nat) (q : List Bool)
    (ct : List (Nat × CtEntry)) :
    visit arena (fuel + 1) n (bitsValue q) q.length ct =
      (visit arena fuel l.toNat (bitsValue (q ++ [false])) (q ++ [false]).length ct).bind
        (visit arena fuel r.toNat (bitsValue (q ++ [true])) (q ++ [true]).length) := by
  have hleft : bitsValue (q ++ [false]) = 2 * bitsValue q := bitsValue_concat q false
  have hright : bitsValue (q ++ [true]) = 2 * bitsValue q + 1 := bitsValue_concat q true
  rw [hleft, hright, List.length_append, List.length_append, List.length_singleton, List.length_singleton]
  simp only [visit, h]
  cases visit arena fuel l.toNat (2 * bitsValue q) (q.length + 1) ct <;> rfl

end

/-- Where children come before their parents, `visit` enters the paths below its node. -/
theorem visit_eq_foldlM {arena : List Node}
    (hb : ∀ n f l r, nodeAt arena n = some (.internal f l r) → l.toNat < n ∧ r.toNat < n) {fuel n : Nat}
    (hn : n < arena.length) (hf : n < fuel) (q : List Bool) (ct : List (Nat × CtEntry)) :
    visit arena fuel n (bitsValue q) q.length ct = (pathsBelow arena fuel n q).foldlM enterPath ct := by
  induction fuel generalizing n q ct with
  | zero => exact absurd hf (Nat.not_lt_zero n)
  | succ fuel ih =>
    have hnode : nodeAt arena n = some arena[n] := List.getElem?_eq_getElem hn
    cases hx : arena[n] with
    | leaf c f =>
      rw [hx] at hnode
      rw [visit_leaf hnode, pathsBelow_leaf hnode, List.foldlM_cons]
      cases enterPath ct (q, c) <;> rfl
    | internal f l r =>
      rw [hx] at hnode
      obtain ⟨hl, hr⟩ := hb n f l r hnode
      rw [visit_internal hnode, pathsBelow_internal hnode, List.foldlM_append, ih (by omega) (by omega),
        funext fun ct => ih (n := r.toNat) (by omega) (by omega) (q ++ [true]) ct]
      rfl

/-! ## What entering a list of paths gives -/

/-- Entering paths succeeds when none is too long, and then writes the entries one after the other. -/
theorem foldlM_enterPath_eq_ok_iff {L : List (List Bool × Byte)} {ct ct' : List (Nat × CtEntry)} :
    L.foldlM enterPath ct = .ok ct' ↔ (∀ x ∈ L, x.1.length ≤ Config.maxCodeLen) ∧ L.foldl setPath ct = ct' := by
  induction L generalizing ct with
  | nil => simp [pure, Except.pure]
  | cons x L ih =>
    rw [List.foldlM_cons, List.forall_mem_cons, List.foldl_cons]
    by_cases hx : x.1.length > Config.maxCodeLen
    · simp [enterPath, hx, bind, Except.bind]
    · simp [enterPath, hx, bind, Except.bind, ih, Nat.not_lt.1 hx]

/-- The first path that is too long is the one reported. -/
theorem foldlM_enterPath_of_long {pre post : List (List Bool × Byte)} {p : List Bool} {c : Byte}
    (ct : List (Nat × CtEntry)) (hpre : ∀ x ∈ pre, x.1.length ≤ Config.maxCodeLen) (hp : Config.maxCodeLen < p.length) :
    (pre ++ (p, c) :: post).foldlM enterPath ct = .error (.codeTooLong c) := by
  rw [List.foldlM_append, foldlM_enterPath_eq_ok_iff.2 ⟨hpre, rfl⟩]
  simp [bind, Except.bind, enterPath, hp]

/-- Each entry is that of one of the paths to its symbol; without a path, it stays. -/
theorem ctAt_foldl_setPath (L : List (List Bool × Byte)) (ct : List (Nat × CtEntry)) (c : Byte) :
    (∃ x ∈ L, x.2 = c ∧ ctAt (L.foldl setPath ct) c = entryOfPath x.1) ∨
      (∀ x ∈ L, x.2 ≠ c) ∧ ctAt (L.foldl setPath ct) c = ctAt ct c := by
  induction L generalizing ct with
  | nil => exact .inr ⟨by simp, rfl⟩
  | cons x L ih =>
    rw [List.foldl_cons]
    rcases ih (setPath ct x) with ⟨y, hy, hc, he⟩ | ⟨hne, he⟩
    · exact .inl ⟨y, List.mem_cons_of_mem x hy, hc, he⟩
    · rw [setPath, ctAt_ctSet] at he
      by_cases hx : c = x.2
      · exact .inl ⟨x, List.mem_cons_self, hx.symm, he.trans (if_pos hx)⟩
      · exact .inr ⟨List.forall_mem_cons.2 ⟨Ne.symm hx, hne⟩, he.trans (if_neg hx)⟩

/-! ## Preorder -/

/-- Preorder is the lexicographic order of the paths. -/
theorem PreorderBefore.lt {p q : List Bool} (h : PreorderBefore p q) : p < q := by
  obtain ⟨c, x, y, rfl, rfl⟩ := h
  exact List.Lex.append_left (· < ·) (.rel (by decide)) c

theorem PreorderBefore.cons {p q : List Bool} (b : Bool) (h : PreorderBefore p q) :
    PreorderBefore (b :: p) (b :: q) := by
  obtain ⟨c, x, y, rfl, rfl⟩ := h
  exact ⟨b :: c, x, y, rfl, rfl⟩

/-- `paths` lists the leaves in preorder. -/
theorem paths_pairwise (arena : List Node) (fuel n : Nat) :
    (paths arena fuel n).Pairwise fun x y => PreorderBefore x.1 y.1 := by
  induction fuel generalizing n with
  | zero => exact .nil
  | succ fuel ih =>
    unfold paths
    split
    · exact .nil
    · exact List.pairwise_singleton _ _
    · rw [List.pairwise_append, List.pairwise_map, List.pairwise_map]
      refine ⟨(ih _).imp (.cons false), (ih _).imp (.cons true), fun a ha b hb => ?_⟩
      obtain ⟨x, -, rfl⟩ := List.mem_map.1 ha
      obtain ⟨y, -, rfl⟩ := List.mem_map.1 hb
      exact ⟨[], x.1, y.1, rfl, rfl⟩

/-- Before the first too long path in preorder, no path in the list is too long. -/
theorem short_of_before_first {pre post : List (List Bool × Byte)} {p : List Bool} {c : Byte} {m : Nat}
    (hL : (pre ++ (p, c) :: post).Pairwise fun x y => PreorderBefore x.1 y.1)
    (hfirst : ∀ x ∈ pre ++ (p, c) :: post, m < x.1.length → x.1 = p ∨ PreorderBefore p x.1) :
    ∀ x ∈ pre, x.1.length ≤ m := by
  intro x hx
  by_contra hlong
  have hxp : x.1 < p := ((List.pairwise_append.1 hL).2.2 x hx (p, c) List.mem_cons_self).lt
  rcases hfirst x (List.mem_append_left _ hx) (Nat.not_le.1 hlong) with rfl | hpx
  · exact lt_irrefl _ hxp
  · exact lt_asymm hxp hpx.lt

end Sys2Proof.Machine
end

section
/-! PROOFS. The leaves of the tree in ARENA and their paths from ROOT (41_code_assigner.md R122, R125). -/

namespace Sys2Proof.Machine

/-- The leaves of the tree in ARENA, in preorder, with their paths from ROOT. -/
def leavesOf (s : State) : List (List Bool × Byte) := paths s.arena Config.arenaNodes s.root.toNat

/-- The Kraft sum of the paths is 1, scaled by 2^fuel: an internal node halves its part for each of its subtrees. -/
theorem kraft_paths {arena : List Node}
    (hb : ∀ n f l r, nodeAt arena n = some (.internal f l r) → l.toNat < n ∧ r.toNat < n) {fuel n : Nat}
    (hn : n < arena.length) (hf : n < fuel) :
    ((paths arena fuel n).map fun x => 2 ^ (fuel - x.1.length)).sum = 2 ^ fuel := by
  induction fuel generalizing n with
  | zero => exact absurd hf (Nat.not_lt_zero n)
  | succ fuel ih =>
    have hnode : nodeAt arena n = some arena[n] := List.getElem?_eq_getElem hn
    cases hx : arena[n] with
    | leaf c f =>
      rw [hx] at hnode
      simp [paths, hnode]
    | internal f l r =>
      rw [hx] at hnode
      obtain ⟨hl, hr⟩ := hb n f l r hnode
      have hleft := ih (n := l.toNat) (by omega) (by omega)
      have hright := ih (n := r.toNat) (by omega) (by omega)
      simp only [paths, hnode, List.map_append, List.map_map, Function.comp_def, List.length_cons,
        Nat.add_sub_add_right, List.sum_append, hleft, hright]
      ring

namespace HoldsTree

variable {es : List FtEntry} {s : State} {p q : List Bool} {a b c : Byte} {n : Nat}

theorem children_lt (h : HoldsTree es s) :
    ∀ n f l r, nodeAt s.arena n = some (.internal f l r) → l.toNat < n ∧ r.toNat < n := by
  obtain ⟨x, hm, -⟩ := h.merging
  intro n f l r hn
  obtain ⟨hl, hr, -⟩ := hm.children hn
  exact ⟨hl, hr⟩

theorem root_lt (h : HoldsTree es s) : s.root.toNat < s.arena.length := by
  have := h.root_toNat
  omega

theorem arena_length_le (h : HoldsTree es s) : s.arena.length ≤ Config.arenaNodes := by
  have hlen := h.arena_length
  have hes : es.length ≤ 256 := h.table.bounded
  rw [Config.arenaNodes]
  omega

/-- The root of a tree of two or more leaves is internal (40_tree_builder.md R104). -/
theorem root_internal (h : HoldsTree es s) (hk : 2 ≤ es.length) :
    ∃ f l r, nodeAt s.arena s.root.toNat = some (.internal f l r) := by
  obtain ⟨x, hm, -⟩ := h.merging
  have hlen := h.arena_length
  have hroot := h.root_toNat
  exact hm.internal _ (by omega) h.root_lt

/-- The root of a tree of one leaf is that leaf (40_tree_builder.md R104). -/
theorem root_leaf {e : FtEntry} (h : HoldsTree [e] s) : nodeAt s.arena s.root.toNat = some (leafOf e) := by
  obtain ⟨x, hm, -⟩ := h.merging
  have hlen := h.arena_length
  have hroot := h.root_toNat
  rw [List.length_singleton] at hlen
  have hzero : s.root.toNat = 0 := by omega
  rw [hzero]
  exact hm.leaves 0 (by simp)

/-! ## Paths from the root -/

theorem mem_leavesOf (h : HoldsTree es s) : (p, c) ∈ leavesOf s ↔ PathTo s.arena s.root.toNat p c := by
  refine ⟨paths_sound _ _ _ _ _, fun hp => mem_paths _ _ _ _ _ hp ?_⟩
  exact (pathTo_length _ h.children_lt _ _ _ hp).trans_lt (h.root_lt.trans_le h.arena_length_le)

/-- The symbols of the leaves are those of the table. -/
theorem exists_pathTo_iff (h : HoldsTree es s) : (∃ p, PathTo s.arena s.root.toNat p c) ↔ ∃ e ∈ es, e.sym = c := by
  obtain ⟨x, hm, hx⟩ := h.merging
  rw [hx]
  constructor
  · rintro ⟨p, hp⟩
    obtain ⟨i, f, -, hi⟩ := pathTo_iff.1 hp
    have hik := hm.lt_of_leaf hi
    have hleaf := (hm.leaves i hik).symm.trans hi
    rw [leafOf, Option.some.injEq, Node.leaf.injEq] at hleaf
    exact ⟨es[i], List.getElem_mem hik, hleaf.1⟩
  · rintro ⟨e, he, rfl⟩
    exact ⟨_, (hm.pathTo_iff_eq_symbolPath h.table.distinct he _).2 rfl⟩

theorem path_unique (h : HoldsTree es s) (hp : PathTo s.arena s.root.toNat p c)
    (hq : PathTo s.arena s.root.toNat q c) : p = q := by
  obtain ⟨e, he, rfl⟩ := h.exists_pathTo_iff.1 ⟨p, hp⟩
  obtain ⟨x, hm, hx⟩ := h.merging
  rw [hx] at hp hq
  have hiff := hm.pathTo_iff_eq_symbolPath h.table.distinct he
  exact ((hiff p).1 hp).trans ((hiff q).1 hq).symm

/-- No path to a leaf begins that to a leaf of another symbol. -/
theorem paths_prefixFree (h : HoldsTree es s) (hp : PathTo s.arena s.root.toNat p a)
    (hq : PathTo s.arena s.root.toNat q b) (hne : a ≠ b) : ¬ Comparable p q := by
  obtain ⟨e, he, rfl⟩ := h.exists_pathTo_iff.1 ⟨p, hp⟩
  obtain ⟨e', he', rfl⟩ := h.exists_pathTo_iff.1 ⟨q, hq⟩
  obtain ⟨x, hm, hx⟩ := h.merging
  rw [hx] at hp hq
  rw [(hm.pathTo_iff_eq_symbolPath h.table.distinct he p).1 hp,
    (hm.pathTo_iff_eq_symbolPath h.table.distinct he' q).1 hq]
  exact hm.symbolPath_prefixFree h.table.distinct he he' hne

/-- With two or more leaves, no path is empty. -/
theorem path_ne_nil (h : HoldsTree es s) (hk : 2 ≤ es.length) (hp : PathTo s.arena s.root.toNat p c) : p ≠ [] := by
  rintro rfl
  obtain ⟨f, l, r, hroot⟩ := h.root_internal hk
  cases hp with
  | leaf hleaf => cases hroot.symm.trans hleaf

/-- Below every node there is a leaf. -/
theorem exists_leaf_below (h : HoldsTree es s) (hn : n < s.arena.length) : ∃ p c, PathTo s.arena n p c := by
  induction n using Nat.strong_induction_on with
  | _ n ih =>
    have hnode : nodeAt s.arena n = some s.arena[n] := List.getElem?_eq_getElem hn
    cases hx : s.arena[n] with
    | leaf c f => exact ⟨[], c, .leaf (hx ▸ hnode)⟩
    | internal f l r =>
      rw [hx] at hnode
      obtain ⟨hl, -⟩ := h.children_lt n f l r hnode
      obtain ⟨p, c, hp⟩ := ih l.toNat hl (by omega)
      exact ⟨false :: p, c, .left hnode hp⟩

/-- A path that goes on can go on with either edge label, to some leaf. -/
theorem exists_path_through (h : HoldsTree es s) (hp : PathTo s.arena s.root.toNat (p ++ q) c) (hq : q ≠ [])
    (bit : Bool) : ∃ r d, PathTo s.arena s.root.toNat (p ++ [bit] ++ r) d := by
  obtain ⟨i, f, hwalk, -⟩ := pathTo_iff.1 hp
  obtain ⟨bit', q, rfl⟩ := List.exists_cons_of_ne_nil hq
  rw [descend_append, Option.bind_eq_some_iff] at hwalk
  obtain ⟨m, hm, hwalk⟩ := hwalk
  rw [descend_cons, Option.bind_eq_some_iff] at hwalk
  obtain ⟨m', hm', -⟩ := hwalk
  obtain ⟨f', l, r, hnode, -⟩ := childAt_eq_some_iff.1 hm'
  have hchild := childAt_internal (bit := bit) hnode
  have hlt : (if bit then r.toNat else l.toNat) < s.arena.length := by
    have hmlt := lt_of_nodeAt hnode
    obtain ⟨hl, hr⟩ := h.children_lt m f' l r hnode
    split <;> omega
  obtain ⟨p', d, hp'⟩ := h.exists_leaf_below hlt
  obtain ⟨j, g, hj, hleaf⟩ := pathTo_iff.1 hp'
  refine ⟨p', d, pathTo_iff.2 ⟨j, g, ?_, hleaf⟩⟩
  rw [descend_append, descend_concat_eq_some_iff.2 ⟨m, hm, hchild⟩, Option.bind_some, hj]

/-- Each symbol stands at one leaf. -/
theorem symbols_nodup (h : HoldsTree es s) : ((leavesOf s).map Prod.snd).Nodup := by
  rw [List.nodup_iff_pairwise_ne, List.pairwise_map]
  refine (paths_pairwise _ _ _).imp_of_mem fun {x y} hx hy hxy hsym => ?_
  have hpath : x.1 = y.1 := h.path_unique (h.mem_leavesOf.1 hx) (hsym ▸ h.mem_leavesOf.1 hy)
  exact hxy.lt.ne hpath

/-- The Kraft sum of the paths, none longer than m, is 1. -/
theorem kraft_leaves (h : HoldsTree es s) {m : Nat} (hm : m ≤ Config.arenaNodes)
    (hshort : ∀ x ∈ leavesOf s, x.1.length ≤ m) : ((leavesOf s).map fun x => 2 ^ (m - x.1.length)).sum = 2 ^ m := by
  have hsum := kraft_paths h.children_lt h.root_lt (h.root_lt.trans_le h.arena_length_le)
  have hscale : ∀ x ∈ leavesOf s, 2 ^ (Config.arenaNodes - x.1.length) =
      2 ^ (Config.arenaNodes - m) * 2 ^ (m - x.1.length) := fun x hx => by
    have := hshort x hx
    rw [← pow_add]
    congr 1
    omega
  rw [← leavesOf, List.map_congr_left hscale, List.sum_map_mul_left, ← Nat.sub_add_cancel hm, pow_add,
    Nat.add_sub_cancel] at hsum
  exact Nat.eq_of_mul_eq_mul_left (by positivity) hsum

end HoldsTree

end Sys2Proof.Machine
end

section
/-! PROOFS. The CodeTable that ASSIGN_CODES makes of a tree (41_code_assigner.md R121 to R123): it holds the paths. -/

namespace Sys2Proof.Machine

/-! ## What a completed ASSIGN_CODES has written -/

theorem exec_assignCodes_of_ok {s : State} {ct : List (Nat × CtEntry)} (hv : s.treeValid = true)
    (h : assignedTable s.arena s.root = .ok ct) : exec .assignCodes s = .next (completeOk (setCodeTable ct s)) := by
  rcases exec_assignCodes s with ⟨hv', -⟩ | ⟨-, ct', h', e⟩ | ⟨-, c, h', -⟩ | ⟨-, h', -⟩
  · cases hv.symm.trans hv'
  · cases h.symm.trans h'
    exact e
  · cases h.symm.trans h'
  · cases h.symm.trans h'

theorem exec_assignCodes_of_tooLong {s : State} {c : Byte} (hv : s.treeValid = true)
    (h : assignedTable s.arena s.root = .error (.codeTooLong c)) :
    exec .assignCodes s = .next (completeErr ⟨.codeTooLong, c.setWidth 32⟩ (setCodeTable [] s)) := by
  rcases exec_assignCodes s with ⟨hv', -⟩ | ⟨-, ct', h', -⟩ | ⟨-, c', h', e⟩ | ⟨-, h', -⟩
  · cases hv.symm.trans hv'
  · cases h.symm.trans h'
  · cases h.symm.trans h'
    exact e
  · cases h.symm.trans h'

/-- A successful ASSIGN_CODES has written the table of the tree. -/
theorem assignedTable_of_succeeds {s t : State} (h : Succeeds .assignCodes s t) :
    assignedTable s.arena s.root = .ok t.ct := by
  obtain ⟨hexec, herr⟩ := h
  rcases exec_assignCodes s with ⟨-, e⟩ | ⟨-, ct, hct, e⟩ | ⟨-, c, -, e⟩ | ⟨-, -, e⟩ <;> cases e.symm.trans hexec
  · cases herr
  · exact hct
  · cases herr

/-! ## The table of a tree -/

@[simp] theorem ctAt_nil (c : Byte) : ctAt [] c = noCode := rfl

theorem codeOf_single (c : Byte) : codeOf (ctSet [] c ⟨true, 1, 0⟩) c = [false] := by
  rw [codeOf, ctAt_ctSet, if_pos rfl]
  rfl

theorem hasCode_single {c d : Byte} : HasCode (ctSet [] d ⟨true, 1, 0⟩) c ↔ c = d := by
  rw [HasCode, ctAt_ctSet]
  by_cases hc : c = d <;> simp [hc, noCode]

/-- The CodeTable holds, for each leaf of the tree, the path to it, and no other code (R122). -/
structure HoldsPaths (s : State) (ct : List (Nat × CtEntry)) : Prop where
  short : ∀ p c, PathTo s.arena s.root.toNat p c → p.length ≤ Config.maxCodeLen
  path : ∀ p c, PathTo s.arena s.root.toNat p c → ctAt ct c = entryOfPath p
  absent : ∀ c, (¬ ∃ p, PathTo s.arena s.root.toNat p c) → ctAt ct c = noCode

namespace HoldsPaths

variable {s : State} {ct : List (Nat × CtEntry)} {p : List Bool} {c : Byte}

theorem hasCode_iff (h : HoldsPaths s ct) : HasCode ct c ↔ ∃ p, PathTo s.arena s.root.toNat p c := by
  constructor
  · intro hc
    by_contra hno
    rw [HasCode, h.absent c hno] at hc
    cases hc
  · rintro ⟨p, hp⟩
    rw [HasCode, h.path p c hp]
    rfl

theorem codeOf_eq (h : HoldsPaths s ct) (hp : PathTo s.arena s.root.toNat p c) : codeOf ct c = p := by
  rw [codeOf, h.path p c hp, codeBits_entryOfPath (h.short p c hp)]

theorem len_eq (h : HoldsPaths s ct) (hp : PathTo s.arena s.root.toNat p c) : (ctAt ct c).len.toNat = p.length := by
  rw [h.path p c hp, entryOfPath_len (h.short p c hp)]

end HoldsPaths

namespace HoldsTree

variable {es : List FtEntry} {s : State} {ct : List (Nat × CtEntry)}

/-- With two or more leaves, ASSIGN_CODES enters their paths in preorder. -/
theorem assignedTable_eq_foldlM (h : HoldsTree es s) (hk : 2 ≤ es.length) :
    assignedTable s.arena s.root = (leavesOf s).foldlM enterPath [] := by
  obtain ⟨f, l, r, hroot⟩ := h.root_internal hk
  have hvisit := visit_eq_foldlM h.children_lt h.root_lt (h.root_lt.trans_le h.arena_length_le) [] []
  rw [pathsBelow_nil, ← leavesOf] at hvisit
  simp only [assignedTable, hroot]
  exact hvisit

/-- With one leaf, ASSIGN_CODES gives it the code of one bit (R123). -/
theorem assignedTable_single {e : FtEntry} (h : HoldsTree [e] s) :
    assignedTable s.arena s.root = .ok (ctSet [] e.sym ⟨true, 1, 0⟩) := by
  simp only [assignedTable, h.root_leaf, leafOf]

/-- A table that ASSIGN_CODES makes of two or more leaves holds their paths. -/
theorem holdsPaths_of_ok (h : HoldsTree es s) (hk : 2 ≤ es.length) (hct : assignedTable s.arena s.root = .ok ct) :
    HoldsPaths s ct := by
  rw [h.assignedTable_eq_foldlM hk, foldlM_enterPath_eq_ok_iff] at hct
  obtain ⟨hshort, rfl⟩ := hct
  refine ⟨fun p c hp => hshort (p, c) (h.mem_leavesOf.2 hp), fun p c hp => ?_, fun c hno => ?_⟩
  · rcases ctAt_foldl_setPath (leavesOf s) [] c with ⟨⟨q, d⟩, hq, rfl, he⟩ | ⟨hne, -⟩
    · rw [he, h.path_unique (h.mem_leavesOf.1 hq) hp]
    · exact absurd rfl (hne (p, c) (h.mem_leavesOf.2 hp))
  · rcases ctAt_foldl_setPath (leavesOf s) [] c with ⟨⟨q, d⟩, hq, rfl, -⟩ | ⟨-, he⟩
    · exact absurd ⟨q, h.mem_leavesOf.1 hq⟩ hno
    · exact he

/-- Where no leaf is deeper than 32, ASSIGN_CODES makes a table. -/
theorem exists_assignedTable (h : HoldsTree es s) (hk : 2 ≤ es.length)
    (hshort : ∀ p c, PathTo s.arena s.root.toNat p c → p.length ≤ Config.maxCodeLen) :
    ∃ ct, assignedTable s.arena s.root = .ok ct := by
  rw [h.assignedTable_eq_foldlM hk]
  exact ⟨_, foldlM_enterPath_eq_ok_iff.2 ⟨fun x hx => hshort x.1 x.2 (h.mem_leavesOf.1 hx), rfl⟩⟩

/-- A table has one entry or more. -/
theorem length_cases (h : HoldsTree es s) : (∃ e, es = [e]) ∨ 2 ≤ es.length := by
  have hpos := List.length_pos_iff.2 h.table.nonempty
  rcases Nat.lt_or_ge es.length 2 with hlt | hge
  · exact .inl (List.length_eq_one_iff.1 (by omega))
  · exact .inr hge

/-- The symbols that ASSIGN_CODES gives codes are those of the table (R126). -/
theorem hasCode_iff_of_ok (h : HoldsTree es s) (hct : assignedTable s.arena s.root = .ok ct) (c : Byte) :
    HasCode ct c ↔ ∃ e ∈ es, e.sym = c := by
  rcases h.length_cases with ⟨e, rfl⟩ | hk
  · cases h.assignedTable_single.symm.trans hct
    rw [hasCode_single]
    simp [eq_comm]
  · rw [(h.holdsPaths_of_ok hk hct).hasCode_iff, h.exists_pathTo_iff]

end HoldsTree

end Sys2Proof.Machine
end

section
/-! PROOFS. The Kraft sum of a CodeTable, and the statements of the family "code assigner" (41_code_assigner.md). -/

namespace Sys2Proof.Machine

/-! ## The Kraft sum of a CodeTable -/

theorem allSymbols_nodup : ((List.range 256).map (BitVec.ofNat 8)).Nodup := by
  refine List.nodup_range.map_on fun a ha b hb hab => ?_
  rw [List.mem_range] at ha hb
  have := congrArg BitVec.toNat hab
  simp only [BitVec.toNat_ofNat] at this
  omega

theorem mem_allSymbols (c : Byte) : c ∈ (List.range 256).map (BitVec.ofNat 8) :=
  List.mem_map.2 ⟨c.toNat, List.mem_range.2 c.isLt, BitVec.ofNat_toNat 8 c⟩

/-- The part of a symbol in the Kraft sum, scaled by 2^32. -/
def kraftPart (ct : List (Nat × CtEntry)) (c : Byte) : Nat :=
  if (ctAt ct c).valid then 2 ^ (32 - (ctAt ct c).len.toNat) else 0

/-- The Kraft sum runs over the symbols that have a code. -/
theorem kraftSum_eq_sum {ct : List (Nat × CtEntry)} {l : List Byte} (hl : l.Nodup) (hc : ∀ c, HasCode ct c ↔ c ∈ l) :
    kraftSum ct = (l.map fun c => 2 ^ (32 - (ctAt ct c).len.toNat)).sum := by
  have hpart : ∀ c ∈ l, 2 ^ (32 - (ctAt ct c).len.toNat) = kraftPart ct c := fun c hmem =>
    (if_pos ((hc c).2 hmem)).symm
  have hall : kraftSum ct = (((List.range 256).map (BitVec.ofNat 8)).map (kraftPart ct)).sum := by
    rw [List.map_map]
    rfl
  rw [hall, List.map_congr_left hpart, ← List.sum_toFinset _ allSymbols_nodup, ← List.sum_toFinset _ hl]
  refine (Finset.sum_subset (fun c _ => List.mem_toFinset.2 (mem_allSymbols c)) fun c _ hmem => ?_).symm
  rw [List.mem_toFinset, ← hc] at hmem
  exact if_neg hmem

theorem kraftSum_single (c : Byte) : kraftSum (ctSet [] c ⟨true, 1, 0⟩) = 2 ^ 31 := by
  rw [kraftSum_eq_sum (List.nodup_singleton c) fun d => by rw [hasCode_single, List.mem_singleton]]
  simp

namespace HoldsTree

variable {es : List FtEntry} {s : State} {ct : List (Nat × CtEntry)}

/-- The codes of two or more symbols have Kraft sum 1 (R125). -/
theorem kraftSum_eq (h : HoldsTree es s) (hct : HoldsPaths s ct) : kraftSum ct = 2 ^ 32 := by
  have hshort : ∀ x ∈ leavesOf s, x.1.length ≤ 32 := fun x hx => hct.short x.1 x.2 (h.mem_leavesOf.1 hx)
  have hcode : ∀ c, HasCode ct c ↔ c ∈ (leavesOf s).map Prod.snd := fun c => by
    simp [hct.hasCode_iff, h.mem_leavesOf]
  have hlen : ∀ x ∈ leavesOf s, 2 ^ (32 - (ctAt ct x.2).len.toNat) = 2 ^ (32 - x.1.length) := fun x hx => by
    rw [hct.len_eq (h.mem_leavesOf.1 hx)]
  rw [kraftSum_eq_sum h.symbols_nodup hcode, List.map_map, ← h.kraft_leaves (by decide) hshort]
  exact congrArg List.sum (List.map_congr_left hlen)

theorem legalTable (h : HoldsTree es s) (hk : 2 ≤ es.length) (hct : HoldsPaths s ct) : LegalTable ct := by
  intro c hc
  obtain ⟨p, hp⟩ := hct.hasCode_iff.1 hc
  rw [hct.path p c hp]
  exact legal_entryOfPath (hct.short p c hp) (h.path_ne_nil hk hp)

theorem prefixFree (h : HoldsTree es s) (hct : HoldsPaths s ct) : PrefixFree ct := by
  intro a b ha hb hne
  obtain ⟨p, hp⟩ := hct.hasCode_iff.1 ha
  obtain ⟨q, hq⟩ := hct.hasCode_iff.1 hb
  rw [hct.codeOf_eq hp, hct.codeOf_eq hq]
  exact h.paths_prefixFree hp hq hne

/-- Every internal node has two children, so no code is missing (R125). -/
theorem completeTable (h : HoldsTree es s) (hct : HoldsPaths s ct) : CompleteTable ct := by
  constructor
  · obtain ⟨p, c, hp⟩ := h.exists_leaf_below h.root_lt
    exact ⟨c, hct.hasCode_iff.2 ⟨p, hp⟩⟩
  · intro p bit c hc hpre hne
    obtain ⟨w, hw⟩ := hct.hasCode_iff.1 hc
    rw [hct.codeOf_eq hw] at hpre hne
    obtain ⟨q, rfl⟩ := hpre
    obtain ⟨r, d, hd⟩ := h.exists_path_through hw (fun hq => hne (by rw [hq, List.append_nil])) bit
    exact ⟨d, hct.hasCode_iff.2 ⟨_, hd⟩, hct.codeOf_eq hd ▸ List.prefix_append _ r⟩

end HoldsTree

/-! ## The statements -/

/-- Settles O31: the table holds the paths, since none is too long. -/
theorem assignCodesWritesThePaths : Obligations.AssignCodesWritesThePaths := by
  intro s es hv htree hk hshort
  obtain ⟨ct, hct⟩ := htree.exists_assignedTable hk hshort
  have hpaths := htree.holdsPaths_of_ok hk hct
  refine ⟨_, exec_assignCodes_of_ok hv hct, rfl, fun p c hp => ?_, hpaths.absent,
    fun a => readByte_congr _ _ rfl rfl rfl a⟩
  refine ⟨hpaths.hasCode_iff.2 ⟨p, hp⟩, hpaths.len_eq hp, ?_, hpaths.codeOf_eq hp⟩
  rw [completeOk_ct, setCodeTable_ct, hpaths.path p c hp, entryOfPath_bits (hpaths.short p c hp)]

/-- Settles O32: the root is the one leaf. -/
theorem singleLeafGetsOneZeroBit : Obligations.SingleLeafGetsOneZeroBit := fun _ e hv htree =>
  ⟨_, exec_assignCodes_of_ok hv htree.assignedTable_single, rfl, codeOf_single e.sym,
    fun c => ctAt_ctSet [] e.sym ⟨true, 1, 0⟩ c⟩

/-- Settles O33: the walk enters the leaves in preorder, so the first that is too long stops it. -/
theorem codeTooLongIsReported : Obligations.CodeTooLongIsReported := by
  intro s es p c hv htree hp hlong hfirst
  have hk : 2 ≤ es.length := by
    rcases htree.length_cases with ⟨e, rfl⟩ | hk
    · cases hp with
      | leaf => cases hlong
      | left hroot => cases hroot.symm.trans htree.root_leaf
      | right hroot => cases hroot.symm.trans htree.root_leaf
    · exact hk
  obtain ⟨pre, post, hsplit⟩ := List.append_of_mem (htree.mem_leavesOf.2 hp)
  have hpre : ∀ x ∈ pre, x.1.length ≤ Config.maxCodeLen :=
    short_of_before_first (hsplit ▸ paths_pairwise _ _ _) fun x hx hlen =>
      hfirst x.1 x.2 (htree.mem_leavesOf.1 (hsplit ▸ hx)) hlen
  have htable : assignedTable s.arena s.root = .error (.codeTooLong c) := by
    rw [htree.assignedTable_eq_foldlM hk, hsplit, foldlM_enterPath_of_long [] hpre hlong]
  rw [exec_assignCodes_of_tooLong hv htable, BitVec.ofNat_toNat]
  rfl

/-- Settles O34: the three completions of ASSIGN_CODES. -/
theorem assignCodesTableOutputs : Obligations.AssignCodesTableOutputs := by
  intro s t h
  rcases exec_assignCodes s with ⟨hv, e⟩ | ⟨hv, ct, hct, e⟩ | ⟨hv, c, -, e⟩ | ⟨-, -, e⟩ <;> cases e.symm.trans h
  · refine ⟨nofun, fun _ herr => ?_, fun _ => ⟨rfl, rfl, rfl, rfl⟩, rfl, fun a => readByte_congr _ _ rfl rfl rfl a⟩
    cases congrArg ErrInfo.cause herr
  · exact ⟨fun _ es _ htree => htree.hasCode_iff_of_ok hct, fun hold hnew => absurd hnew hold,
      fun hv' => (by cases hv.symm.trans hv'), rfl, fun a => readByte_congr _ _ rfl rfl rfl a⟩
  · exact ⟨nofun, fun _ _ => ctAt_nil, fun hv' => (by cases hv.symm.trans hv'), rfl,
      fun a => readByte_congr _ _ rfl rfl rfl a⟩

/-- Settles O35: by the paths of the tree for two or more symbols, and by the one code for one symbol. -/
theorem assignedCodesArePrefixFree : Obligations.AssignedCodesArePrefixFree := by
  intro s t es hv htree h
  have hok := assignedTable_of_succeeds h
  rcases htree.length_cases with ⟨e, rfl⟩ | hk
  · rw [htree.assignedTable_single, Except.ok.injEq] at hok
    rw [← hok]
    refine ⟨fun c hc => ?_, fun a b ha hb hne => ?_, fun hk => absurd hk (by simp), fun _ => kraftSum_single e.sym⟩
    · rw [hasCode_single.1 hc, ctAt_ctSet, if_pos rfl]
      rfl
    · exact absurd ((hasCode_single.1 ha).trans (hasCode_single.1 hb).symm) hne
  · have hct := htree.holdsPaths_of_ok hk hok
    exact ⟨htree.legalTable hk hct, htree.prefixFree hct,
      fun _ => ⟨htree.kraftSum_eq hct, htree.completeTable hct, fun p c hp => hct.len_eq hp⟩, fun hone => by omega⟩

end Sys2Proof.Machine
end

section
/-! PROOFS. The checks and the loop of ENCODE (42_bit_packer.md R141, R142): when they pass, which one fails first, and the bits
that a success packs. -/

namespace Sys2Proof.Machine

/-! ## ValidateCT -/

/-- `ValidateCT()` refuses the entry: it is valid and illegal (R142). -/
def CtEntry.refused (e : CtEntry) : Bool := e.valid && e.illegal

theorem CtEntry.refused_iff (e : CtEntry) : e.refused = true ↔ e.valid = true ∧ e.illegal = true := Bool.and_eq_true_iff

theorem validateCt_cons (k : Nat) (e : CtEntry) (ct : List (Nat × CtEntry)) :
    validateCt ((k, e) :: ct) = if e.refused then .error ⟨.badCodeEntry, BitVec.ofNat 32 k⟩ else validateCt ct := rfl

theorem validateCt_of_passing {ct : List (Nat × CtEntry)} (h : ∀ k e, (k, e) ∈ ct → ¬ e.refused = true) :
    validateCt ct = .ok () := by
  induction ct with
  | nil => rfl
  | cons x ct ih =>
    rw [validateCt_cons, if_neg (h x.1 x.2 List.mem_cons_self)]
    exact ih fun k e hmem => h k e (List.mem_cons_of_mem x hmem)

/-- The walk meets the listed entries by rising symbol, so the refused entry of the least symbol is the one reported. -/
theorem validateCt_of_least {ct : List (Nat × CtEntry)} (hs : Sparse.sorted ct = true) {k : Nat} {e : CtEntry}
    (hmem : (k, e) ∈ ct) (hbad : e.refused = true) (hleast : ∀ j d, (j, d) ∈ ct → j < k → ¬ d.refused = true) :
    validateCt ct = .error ⟨.badCodeEntry, BitVec.ofNat 32 k⟩ := by
  induction ct with
  | nil => cases hmem
  | cons x ct ih =>
    obtain ⟨hlt, hs⟩ := (Sparse.sorted_cons x ct).1 hs
    rcases List.mem_cons.1 hmem with rfl | hmem
    · rw [validateCt_cons, if_pos hbad]
    · rw [validateCt_cons, if_neg (hleast x.1 x.2 List.mem_cons_self (hlt _ hmem))]
      exact ih hs hmem fun j d hj => hleast j d (List.mem_cons_of_mem x hj)

theorem validateCt_of_legal {ct : List (Nat × CtEntry)} (hc : CanonicalTable ct) (hl : LegalTable ct) :
    validateCt ct = .ok () := by
  refine validateCt_of_passing fun k e hmem hbad => ?_
  obtain ⟨hv, hill⟩ := e.refused_iff.1 hbad
  obtain ⟨rfl, -⟩ := ctAt_of_mem ct hc k e hmem
  cases hill.symm.trans (hl _ hv)

/-- A symbol with a code is listed. -/
theorem mem_of_hasCode {ct : List (Nat × CtEntry)} {c : Byte} (h : HasCode ct c) : (c.toNat, ctAt ct c) ∈ ct := by
  cases hlk : Sparse.lookup ct c.toNat with
  | none =>
    rw [HasCode, ctAt, hlk] at h
    cases h
  | some e =>
    rw [ctAt, hlk]
    exact Sparse.mem_of_lookup ct c.toNat e hlk

/-- In a canonical CodeTable, `ValidateCT()` reports the least symbol whose entry is valid and illegal (R142). -/
theorem validateCt_of_illegal {ct : List (Nat × CtEntry)} {c : Byte} (hc : CanonicalTable ct) (hcode : HasCode ct c)
    (hill : (ctAt ct c).illegal = true)
    (hleast : ∀ d : Byte, d.toNat < c.toNat → HasCode ct d → (ctAt ct d).illegal = false) :
    validateCt ct = .error ⟨.badCodeEntry, BitVec.ofNat 32 c.toNat⟩ := by
  refine validateCt_of_least ((Sparse.wfOr_iff _ _ _).1 hc).1 (mem_of_hasCode hcode)
    ((CtEntry.refused_iff _).2 ⟨hcode, hill⟩) fun j d hmem hlt hbad => ?_
  obtain ⟨hv, hill⟩ := d.refused_iff.1 hbad
  obtain ⟨rfl, hj⟩ := ctAt_of_mem ct hc j d hmem
  have hsym : (BitVec.ofNat 8 j).toNat < c.toNat := by
    rw [BitVec.toNat_ofNat]
    omega
  cases hill.symm.trans (hleast _ hsym hv)

/-! ## The loop over SRC -/

theorem codeOf_length (ct : List (Nat × CtEntry)) (c : Byte) : (codeOf ct c).length = (ctAt ct c).len.toNat :=
  codeBits_length _

theorem bitsOf_cons (ct : List (Nat × CtEntry)) (c : Byte) (cs : List Byte) :
    bitsOf ct (c :: cs) = codeOf ct c ++ bitsOf ct cs := rfl

theorem ceilDiv8_mono {a b : Nat} (h : a ≤ b) : ceilDiv8 a ≤ ceilDiv8 b := Nat.div_le_div_right (Nat.add_le_add_right h 7)

section
variable {ct : List (Nat × CtEntry)} {bufBytes i t : Nat} {c : Byte}

theorem packLoop_cons_of_noCode (h : ¬ HasCode ct c) (cs : List Byte) :
    packLoop ct bufBytes i t (c :: cs) = .error ⟨.symbolNotInTable, BitVec.ofNat 32 i⟩ := if_neg h

theorem packLoop_cons_of_overflow (h : HasCode ct c) (hfull : ¬ ceilDiv8 (t + (codeOf ct c).length) ≤ bufBytes)
    (cs : List Byte) : packLoop ct bufBytes i t (c :: cs) = .error ⟨.dstOverflow, BitVec.ofNat 32 i⟩ := by
  rw [codeOf_length, Nat.not_le] at hfull
  exact (if_pos h).trans (if_pos hfull)

/-- A byte whose code fits adds its code. -/
theorem packLoop_cons_of_fits (h : HasCode ct c) (hfit : ceilDiv8 (t + (codeOf ct c).length) ≤ bufBytes) (cs : List Byte) :
    packLoop ct bufBytes i t (c :: cs) =
      (packLoop ct bufBytes (i + 1) (t + (codeOf ct c).length) cs).map (codeOf ct c ++ ·) := by
  rw [codeOf_length] at hfit ⊢
  refine (if_pos h).trans ((if_neg (Nat.not_lt.2 hfit)).trans ?_)
  cases packLoop ct bufBytes (i + 1) (t + (ctAt ct c).len.toNat) cs <;> rfl

/-- Bytes whose codes fit are packed, and the loop goes on behind them. -/
theorem packLoop_append (pre post : List Byte) (hcode : ∀ c ∈ pre, HasCode ct c)
    (hfit : ceilDiv8 (t + (bitsOf ct pre).length) ≤ bufBytes) :
    packLoop ct bufBytes i t (pre ++ post) =
      (packLoop ct bufBytes (i + pre.length) (t + (bitsOf ct pre).length) post).map (bitsOf ct pre ++ ·) := by
  induction pre generalizing i t with
  | nil =>
    show packLoop ct bufBytes i t post = (packLoop ct bufBytes i t post).map id
    cases packLoop ct bufBytes i t post <;> rfl
  | cons c pre ih =>
    obtain ⟨hc, hpre⟩ := List.forall_mem_cons.1 hcode
    rw [bitsOf_cons, List.length_append, ← Nat.add_assoc] at hfit ⊢
    have hfirst : ceilDiv8 (t + (codeOf ct c).length) ≤ bufBytes :=
      (ceilDiv8_mono (Nat.le_add_right _ _)).trans hfit
    rw [List.cons_append, packLoop_cons_of_fits hc hfirst, ih hpre hfit, List.length_cons, Nat.add_assoc i, Nat.add_comm 1]
    cases packLoop ct bufBytes (i + (pre.length + 1)) (t + (codeOf ct c).length + (bitsOf ct pre).length) post with
    | error r => rfl
    | ok b => exact congrArg Except.ok (List.append_assoc _ _ b).symm

/-- A loop that ends without an error has packed the codes of its bytes. -/
theorem bits_of_packLoop {bytes : List Byte} {b : List Bool} (h : packLoop ct bufBytes i t bytes = .ok b) :
    b = bitsOf ct bytes := by
  induction bytes generalizing i t b with
  | nil =>
    cases h
    rfl
  | cons c cs ih =>
    by_cases hc : HasCode ct c
    · by_cases hfit : ceilDiv8 (t + (codeOf ct c).length) ≤ bufBytes
      · rw [packLoop_cons_of_fits hc hfit] at h
        cases hrest : packLoop ct bufBytes (i + 1) (t + (codeOf ct c).length) cs with
        | error r =>
          rw [hrest] at h
          cases h
        | ok rest =>
          rw [hrest] at h
          cases h
          rw [ih hrest, bitsOf_cons]
      · cases (packLoop_cons_of_overflow hc hfit cs).symm.trans h
    · cases (packLoop_cons_of_noCode hc cs).symm.trans h

end

/-! ## The checks in their order -/

section
variable {s : State}

theorem encodedBits_of_long (h : s.params.bufBytes < s.srcLen.toNat) :
    encodedBits s = .error ⟨.badSrcLen, BitVec.ofNat 32 s.srcLen.toNat⟩ := by
  rw [encodedBits, if_pos h, BitVec.ofNat_toNat]

theorem encodedBits_of_empty (h : s.srcLen.toNat = 0) : encodedBits s = .error ⟨.emptyInput, 0⟩ := by
  rw [encodedBits, if_neg (by omega), if_pos h]

theorem encodedBits_of_illegal {r : Raise} (hlen : s.srcLen.toNat ≤ s.params.bufBytes) (hpos : 1 ≤ s.srcLen.toNat)
    (hr : validateCt s.ct = .error r) : encodedBits s = .error r := by
  rw [encodedBits, if_neg (by omega), if_neg (by omega), hr]

theorem encodedBits_of_legal (hlen : s.srcLen.toNat ≤ s.params.bufBytes) (hpos : 1 ≤ s.srcLen.toNat)
    (hc : CanonicalTable s.ct) (hl : LegalTable s.ct) :
    encodedBits s = packLoop s.ct s.params.bufBytes 0 0 (srcBytes s s.srcLen.toNat) := by
  rw [encodedBits, if_neg (by omega), if_neg (by omega), validateCt_of_legal hc hl]

theorem decodedBytes_of_illegal {r : Raise} (hlen : s.srcLen.toNat ≤ s.params.bufBytes)
    (hr : validateCt s.ct = .error r) : decodedBytes s = .error r := by
  rw [decodedBytes, if_neg (by omega), hr]

/-- What a successful ENCODE packs is the codes of SRC. -/
theorem bits_of_encodedBits {b : List Bool} (h : encodedBits s = .ok b) :
    b = bitsOf s.ct (srcBytes s s.srcLen.toNat) := by
  unfold encodedBits at h
  split at h
  · cases h
  · split at h
    · cases h
    · split at h
      · cases h
      · exact bits_of_packLoop h

/-- A failing check of ENCODE is the one reported. -/
theorem exec_encode_of_error {r : Raise} (h : encodedBits s = .error r) :
    exec .encode s = .next (completeErr r (dropOutput s)) := by
  rcases exec_encode s with ⟨r', hr, e⟩ | ⟨b, hb, -⟩
  · cases h.symm.trans hr
    exact e
  · cases h.symm.trans hb

theorem exec_encode_of_ok {b : List Bool} (h : encodedBits s = .ok b) :
    exec .encode s = .next (completeOk (setOutput (packBits b) (padLength b.length) b.length s)) := by
  rcases exec_encode s with ⟨r, hr, -⟩ | ⟨b', hb, e⟩
  · cases h.symm.trans hr
  · cases h.symm.trans hb
    exact e

/-- A failing check of DECODE is the one reported. -/
theorem exec_decode_of_error {r : Raise} (h : decodedBytes s = .error r) :
    exec .decode s = .next (completeErr r (dropOutput s)) := by
  rcases exec_decode s with ⟨r', hr, e⟩ | ⟨b, hb, -⟩
  · cases h.symm.trans hr
    exact e
  · cases h.symm.trans hb

end

/-! ## The bytes of SRC -/

theorem hasCode_of_mem_srcBytes {s : State} {n : Nat} (h : ∀ j, j < n → HasCode s.ct (srcByte s j)) :
    ∀ c ∈ srcBytes s n, HasCode s.ct c :=
  List.forall_mem_map.2 fun j hj => h j (List.mem_range.1 hj)

theorem srcBytes_succ (s : State) (i : Nat) : srcBytes s (i + 1) = srcBytes s i ++ [srcByte s i] := by
  simp [srcBytes, List.range_succ]

/-- SRC[i], i < n, with the bytes before and after it. -/
theorem srcBytes_split (s : State) {i n : Nat} (h : i < n) :
    ∃ post, srcBytes s n = srcBytes s i ++ srcByte s i :: post := by
  obtain ⟨d, rfl⟩ := Nat.exists_eq_add_of_le (Nat.succ_le_of_lt h)
  refine ⟨(List.range d).map fun j => srcByte s (i + 1 + j), ?_⟩
  rw [srcBytes, List.range_add, List.map_append, ← srcBytes, srcBytes_succ]
  simp

theorem bitsOf_srcBytes_succ (s : State) (i : Nat) :
    bitsOf s.ct (srcBytes s (i + 1)) = bitsOf s.ct (srcBytes s i) ++ codeOf s.ct (srcByte s i) := by
  simp [bitsOf, srcBytes_succ]

/-- Where the bytes before SRC[i] have codes that fit, SRC[i] and what follows decide. -/
theorem encodedBits_at {s : State} {i : Nat} (hlen : s.srcLen.toNat ≤ s.params.bufBytes) (hc : CanonicalTable s.ct)
    (hl : LegalTable s.ct) (hi : i < s.srcLen.toNat) (hcode : ∀ j, j < i → HasCode s.ct (srcByte s j))
    (hfit : ceilDiv8 (bitsOf s.ct (srcBytes s i)).length ≤ s.params.bufBytes) :
    ∃ post, encodedBits s =
      (packLoop s.ct s.params.bufBytes i (bitsOf s.ct (srcBytes s i)).length (srcByte s i :: post)).map
        (bitsOf s.ct (srcBytes s i) ++ ·) := by
  obtain ⟨post, hsplit⟩ := srcBytes_split s hi
  refine ⟨post, ?_⟩
  rw [encodedBits_of_legal hlen (by omega) hc hl, hsplit,
    packLoop_append _ _ (hasCode_of_mem_srcBytes hcode) (by rwa [Nat.zero_add]), srcBytes_length, Nat.zero_add, Nat.zero_add]

/-- Bytes that all have codes, and codes that fit: the checks of ENCODE pass. -/
theorem encodedBits_of_fits {s : State} (hlen : s.srcLen.toNat ≤ s.params.bufBytes) (hpos : 1 ≤ s.srcLen.toNat)
    (hc : CanonicalTable s.ct) (hl : LegalTable s.ct) (hcode : ∀ j, j < s.srcLen.toNat → HasCode s.ct (srcByte s j))
    (hfit : ceilDiv8 (bitsOf s.ct (srcBytes s s.srcLen.toNat)).length ≤ s.params.bufBytes) :
    encodedBits s = .ok (bitsOf s.ct (srcBytes s s.srcLen.toNat)) := by
  rw [encodedBits_of_legal hlen hpos hc hl, ← List.append_nil (srcBytes s _),
    packLoop_append _ [] (hasCode_of_mem_srcBytes hcode) (by rwa [Nat.zero_add]), List.append_nil]
  exact congrArg Except.ok (List.append_nil _)

end Sys2Proof.Machine
end

section
/-! PROOFS. The outputs of a successful ENCODE (42_bit_packer.md R143, R144), and the statements of the family "bit packer". -/

namespace Sys2Proof.Machine

/-! ## The registers and the bytes of a success -/

section
variable {s : State} {b : List Bool}

theorem outLen_of_packBits (hp : s.params.wellFormed = true) (hfit : ceilDiv8 b.length ≤ s.params.bufBytes)
    (p n : Nat) : (completeOk (setOutput (packBits b) p n s)).outLen.toNat = ceilDiv8 b.length := by
  have := bufBytes_le hp
  rw [completeOk_outLen, setOutput_outLen, packBits_length, BitVec.toNat_ofNat]
  omega

theorem padLength_le (n : Nat) : padLength n ≤ 7 := Nat.le_of_lt_succ (Nat.mod_lt _ (by decide))

theorem padOut_of_padLength (bytes : List Byte) (k n : Nat) :
    (completeOk (setOutput bytes (padLength k) n s)).padOut.toNat = padLength k :=
  Nat.mod_eq_of_lt (Nat.lt_succ_of_le (padLength_le k))

theorem totalBits_of_length (hp : s.params.wellFormed = true) (hfit : ceilDiv8 b.length ≤ s.params.bufBytes)
    (bytes : List Byte) (p : Nat) : (completeOk (setOutput bytes p b.length s)).totalBits.toNat = b.length := by
  have := bufBytes_le hp
  rw [ceilDiv8] at hfit
  rw [completeOk_totalBits, setOutput_totalBits, BitVec.toNat_ofNat]
  omega

/-- Bit 7−q of DST[m] is bit 8m+q of the string that was packed (20_memory.md R69). -/
theorem readByte_packBits_bit (p n : Nat) {m q : Nat} (hm : m < ceilDiv8 b.length) (hq : q < 8) :
    (readByte (completeOk (setOutput (packBits b) p n s)) (0x20000 + m)).getLsbD (7 - q) = b.getD (8 * m + q) false := by
  have hbyte := readByte_output s (packBits b) p n (hm.trans_eq (packBits_length b).symm)
  rw [show 0x20000 + m = Config.dstBase + m from rfl, hbyte, ← packedBit, ← packedByte_bit b m q hq]
  simp [packBits]

/-- The pad fills the last byte (R143). -/
theorem eight_mul_ceilDiv8 (n : Nat) : 8 * ceilDiv8 n = n + padLength n := by
  unfold ceilDiv8 padLength
  omega

/-- The PAD_OUT low-order bits of the last byte lie past the end of the string, so they are 0 (R143). -/
theorem readByte_packBits_filler (p n : Nat) {q : Nat} (hq : q < padLength b.length) :
    (readByte (completeOk (setOutput (packBits b) p n s)) (0x20000 + (ceilDiv8 b.length - 1))).getLsbD q = false := by
  have hle := padLength_le b.length
  have hpad := eight_mul_ceilDiv8 b.length
  have hbit := readByte_packBits_bit (s := s) p n (show ceilDiv8 b.length - 1 < ceilDiv8 b.length by omega)
    (show 7 - q < 8 by omega)
  rw [show 7 - (7 - q) = q by omega] at hbit
  rw [hbit, List.getD_eq_default]
  omega

end

/-! ## The weighted length -/

/-- The bits of a list of symbols are as many as their codes have. -/
theorem bitsOf_length (ct : List (Nat × CtEntry)) (bytes : List Byte) :
    (bitsOf ct bytes).length = (bytes.map fun c => (ctAt ct c).len.toNat).sum := by
  simp only [bitsOf, List.length_flatMap, codeOf_length]

/-- A sum over the bytes is the sum over the symbols, each as often as it occurs (R144). -/
theorem weightedLength_eq_length (ct : List (Nat × CtEntry)) (bytes : List Byte) :
    weightedLength ct bytes = (bitsOf ct bytes).length := by
  have hsum : weightedLength ct bytes = ∑ c ∈ ((List.range 256).map (BitVec.ofNat 8)).toFinset,
      bytes.count c • (ctAt ct c).len.toNat := by
    rw [List.sum_toFinset _ allSymbols_nodup, List.map_map]
    exact congrArg List.sum (List.map_congr_left fun c _ => Nat.mul_comm _ _)
  rw [hsum, bitsOf_length, Finset.sum_list_map_count]
  refine (Finset.sum_subset (fun c _ => List.mem_toFinset.2 (mem_allSymbols c)) fun c _ hmem => ?_).symm
  rw [List.count_eq_zero.2 fun h => hmem (List.mem_toFinset.2 h), zero_smul]

/-! ## The statements -/

/-- Settles O36: the checks pass, and DST holds the packed codes. -/
theorem encodePacksTheCodes : Obligations.EncodePacksTheCodes := by
  intro s hp hc hpos hlen hl hcode b hfit
  refine ⟨_, exec_encode_of_ok (encodedBits_of_fits hlen hpos hc hl hcode hfit), rfl,
    outLen_of_packBits hp hfit _ _, padOut_of_padLength _ _ _, totalBits_of_length hp hfit _ _,
    fun m q hm hq => readByte_packBits_bit _ _ hm hq, fun a ha => readByte_outside_output s _ _ _ ?_⟩
  rwa [packBits_length]

/-- Settles O37: the checks in their order; the bytes before the reported one have codes that fit. -/
theorem encodeErrors : Obligations.EncodeErrors := by
  intro s reports fits
  have report {c : Cause} {arg : Nat} (h : encodedBits s = .error ⟨c, BitVec.ofNat 32 arg⟩) :
      reports (c.errInfo s.curOp) arg := ⟨_, exec_encode_of_error h, rfl, rfl, rfl, rfl, rfl⟩
  refine ⟨fun h => report (encodedBits_of_long h), fun h => report (encodedBits_of_empty h),
    fun hlen hc hl i hi hcode hfit => ?_⟩
  obtain ⟨post, hat⟩ := encodedBits_at hlen hc hl hi hcode hfit
  refine ⟨fun hno => report (c := .symbolNotInTable) ?_, fun hyes hover => report (c := .dstOverflow) ?_⟩
  · rw [hat, packLoop_cons_of_noCode hno]
    rfl
  · simp only [fits, bitsOf_srcBytes_succ, List.length_append] at hover
    rw [hat, packLoop_cons_of_overflow hyes hover]
    rfl

/-- Settles O38: `ValidateCT()` reports the entry, and both commands run it before they read SRC. -/
theorem illegalEntriesAreReported : Obligations.IllegalEntriesAreReported := by
  intro s c hc hlen hcode hill hleast
  have hct := validateCt_of_illegal hc hcode hill hleast
  exact ⟨fun hpos => ⟨_, exec_encode_of_error (encodedBits_of_illegal hlen hpos hct), rfl, rfl, rfl⟩,
    _, exec_decode_of_error (decodedBytes_of_illegal hlen hct), rfl, rfl, rfl⟩

/-- Settles O39: the pad fills the last byte with bits past the end of the string. -/
theorem padLengthAndFiller : Obligations.PadLengthAndFiller := by
  intro s t hp h
  obtain ⟨-, b, hb, rfl⟩ := (succeeds_encode_iff s t).1 h
  have hfit := encodedBits_fits hb
  rw [padOut_of_padLength, totalBits_of_length hp hfit, outLen_of_packBits hp hfit]
  exact ⟨rfl, padLength_le _, eight_mul_ceilDiv8 _, fun q hq => readByte_packBits_filler _ _ hq⟩

/-- Settles O40: the codes of SRC were packed, and their lengths sum to the weighted length. -/
theorem totalBitsIsTheWeightedLength : Obligations.TotalBitsIsTheWeightedLength := by
  intro s t hp h
  obtain ⟨-, b, hb, rfl⟩ := (succeeds_encode_iff s t).1 h
  rw [weightedLength_eq_length, ← bits_of_encodedBits hb]
  exact totalBits_of_length hp (encodedBits_fits hb) _ _

/-- Settles O41: with ERR 0 before, an error completion is `dropOutput` and `raise`. -/
theorem codecErrorOutputs : Obligations.CodecErrorOutputs := by
  intro i s t hi herr hexec ht
  rcases exec_codec_cases hi hexec with ⟨r, rfl⟩ | ⟨b, p, n, -, rfl⟩
  · exact ⟨rfl, fun a ha => exec_readByte hexec ha,
      fun a ha => (Memory.lookup_dropDst s.mem a).trans (if_neg (Nat.not_lt.2 ha))⟩
  · cases herr.symm.trans ht

end Sys2Proof.Machine
end

section
/-! PROOFS. Unpacking is the inverse of packing (43_bit_unpacker.md R160, R161): the statements of the family "bit unpacker". -/

namespace Sys2Proof.Machine

section
variable {s : State} {b : List Bool}

/-- With the byte count and the pad of n packed bits in SRC_LEN and PAD_IN, DECODE walks n bits. -/
theorem nbits_of_packed {n : Nat} (hlen : s.srcLen.toNat = ceilDiv8 n) (hpad : s.padIn.toNat = 8 * ceilDiv8 n - n) :
    nbits s = n := by
  have hfill := eight_mul_ceilDiv8 n
  rw [nbits, hlen, hpad]
  split <;> omega

/-- When SRC holds the packed format of a string, srcbit(t) is bit t of the string. -/
theorem srcBit_of_packed (hsrc : ∀ m q, m < ceilDiv8 b.length → q < 8 →
      (readByte s (Config.srcBase + m)).getLsbD (7 - q) = b.getD (8 * m + q) false)
    {t : Nat} (ht : t < b.length) : srcBit s t = b.getD t false := by
  have hbyte : t / 8 < ceilDiv8 b.length := by
    rw [ceilDiv8]
    omega
  rw [srcBit, srcByte, hsrc (t / 8) (t % 8) hbyte (Nat.mod_lt t (by decide)), Nat.div_add_mod]

/-- DECODE walks the string whose bits srcbit gives. -/
theorem srcBits_eq_of_bits (hn : nbits s = b.length) (hbits : ∀ t, t < b.length → srcBit s t = b.getD t false) :
    srcBits s = b := by
  refine List.ext_getElem ((srcBits_length s).trans hn) fun t _ ht => ?_
  simp [srcBits, hbits t ht, ht]

end

/-- Settles O42: the pad makes up the count, and bit 8m+q of the string is bit 7−q of SRC[m]. -/
theorem unpackingInvertsPacking : Obligations.UnpackingInvertsPacking := by
  refine fun s => ⟨fun _ _ => rfl, fun b hsrc hlen hpad => ?_⟩
  have hn := nbits_of_packed hlen hpad
  have hbits : ∀ t, t < b.length → srcBit s t = b.getD t false := fun _ => srcBit_of_packed hsrc
  exact ⟨hn, srcBits_eq_of_bits hn hbits, hbits⟩

end Sys2Proof.Machine
end

section
/-! PROOFS. The decode trie (44_decode_trie.md R180, R181): where a path leads in it, and what inserting a code does to it. -/

namespace Sys2Proof.Machine

namespace Trie

/-! ## Paths -/

/-- Where a path from the top of a trie leads: each bit takes one child (R180). -/
def follow (t : Trie) (p : List Bool) : Trie := p.foldl (fun u b => u.child b) t

/-- An Internal node, neither absent nor a Leaf. -/
def isInternal : Trie → Bool
  | .node _ _ => true
  | _ => false

/-- The Internal node with u as child[b] and the other child of t. -/
def withChild (t : Trie) (b : Bool) (u : Trie) : Trie :=
  if b then .node (t.child false) u else .node u (t.child true)

section
variable {t u : Trie} {b : Bool} {c d : Byte} {p q : List Bool}

@[simp] theorem follow_nil : t.follow [] = t := rfl

@[simp] theorem follow_cons : t.follow (b :: p) = (t.child b).follow p := rfl

@[simp] theorem follow_concat : t.follow (p ++ [b]) = (t.follow p).child b := List.foldl_append

@[simp] theorem follow_absent : (absent : Trie).follow p = absent := by
  induction p with
  | nil => rfl
  | cons b p ih => exact ih

@[simp] theorem child_withChild (b' : Bool) : (t.withChild b u).child b' = if b' = b then u else t.child b' := by
  cases b <;> cases b' <;> rfl

@[simp] theorem isInternal_withChild : (t.withChild b u).isInternal = true := by cases b <;> rfl

@[simp] theorem withChild_ne_leaf : t.withChild b u ≠ leaf d := by cases b <;> exact nofun

/-- Only an Internal node has a child. -/
theorem isInternal_of_child (h : t.child b ≠ absent) : t.isInternal = true := by
  cases t with
  | absent => exact absurd rfl h
  | leaf d => exact absurd rfl h
  | node l r => rfl

/-! ## Inserting a code -/

/-- Where no Leaf stands, the rest of a code goes into the child that its first bit takes. -/
theorem insertCode_cons (h : ∀ d, t ≠ leaf d) :
    t.insertCode c (b :: p) = ((t.child b).insertCode c p).map (t.withChild b) := by
  cases t with
  | absent => cases b <;> simp only [insertCode, child] <;> cases absent.insertCode c p <;> rfl
  | leaf d => exact absurd rfl (h d)
  | node l r =>
    cases b <;> simp only [insertCode, child, Bool.false_eq_true, if_true, if_false]
    · cases l.insertCode c p <;> rfl
    · cases r.insertCode c p <;> rfl

/-- A code ends only where nothing stands yet. -/
theorem insertCode_nil_eq_some_iff : t.insertCode c [] = some u ↔ t = absent ∧ u = leaf c := by
  cases t <;> simp [insertCode, eq_comm]

/-- A code goes on through the child that its first bit takes, but not through a Leaf. -/
theorem insertCode_cons_eq_some_iff :
    t.insertCode c (b :: p) = some u ↔
      (∀ d, t ≠ leaf d) ∧ ∃ v, (t.child b).insertCode c p = some v ∧ t.withChild b v = u := by
  by_cases hleaf : ∃ d, t = leaf d
  · obtain ⟨d, rfl⟩ := hleaf
    exact ⟨nofun, fun h => absurd rfl (h.1 d)⟩
  · rw [not_exists] at hleaf
    rw [insertCode_cons hleaf, Option.map_eq_some_iff]
    exact ⟨fun h => ⟨hleaf, h⟩, fun h => h.2⟩

/-- Inserting a code adds the Leaf at its end and no other. -/
theorem follow_insertCode_eq_leaf_iff (h : t.insertCode c p = some u) (q : List Bool) :
    u.follow q = leaf d ↔ q = p ∧ d = c ∨ t.follow q = leaf d := by
  induction p generalizing t u q with
  | nil =>
    obtain ⟨rfl, rfl⟩ := insertCode_nil_eq_some_iff.1 h
    cases q <;> simp [child, eq_comm]
  | cons b p ih =>
    obtain ⟨hleaf, v, hv, rfl⟩ := insertCode_cons_eq_some_iff.1 h
    cases q with
    | nil => simp [hleaf d]
    | cons b' q =>
      by_cases hb : b' = b
      · subst hb
        simp [ih hv]
      · simp [hb]

/-- Inserting a code makes its proper prefixes Internal nodes and no other. -/
theorem isInternal_follow_insertCode_iff (h : t.insertCode c p = some u) (q : List Bool) :
    (u.follow q).isInternal = true ↔ (q <+: p ∧ q ≠ p) ∨ (t.follow q).isInternal = true := by
  induction p generalizing t u q with
  | nil =>
    obtain ⟨rfl, rfl⟩ := insertCode_nil_eq_some_iff.1 h
    cases q <;> simp [child, isInternal]
  | cons b p ih =>
    obtain ⟨-, v, hv, rfl⟩ := insertCode_cons_eq_some_iff.1 h
    cases q with
    | nil => simp
    | cons b' q =>
      by_cases hb : b' = b
      · subst hb
        simp [ih hv]
      · simp [hb]

/-- A code is inserted where its end is free and no Leaf stands on the way (R181). -/
theorem exists_insertCode (hend : t.follow p = absent) (hway : ∀ q d, q <+: p → q ≠ p → t.follow q ≠ leaf d) :
    ∃ u, t.insertCode c p = some u := by
  induction p generalizing t with
  | nil => exact ⟨_, insertCode_nil_eq_some_iff.2 ⟨hend, rfl⟩⟩
  | cons b p ih =>
    obtain ⟨v, hv⟩ := ih hend fun q d hq hne => hway (b :: q) d (List.cons_prefix_cons.2 ⟨rfl, hq⟩) (by simpa using hne)
    exact ⟨_, insertCode_cons_eq_some_iff.2 ⟨fun d => hway [] d List.nil_prefix nofun, v, hv, rfl⟩⟩

/-- A code is inserted only where nothing stands at its end. -/
theorem follow_eq_absent_of_insertCode (h : t.insertCode c p = some u) : t.follow p = absent := by
  induction p generalizing t u with
  | nil => exact (insertCode_nil_eq_some_iff.1 h).1
  | cons b p ih =>
    obtain ⟨-, v, hv, -⟩ := insertCode_cons_eq_some_iff.1 h
    exact ih hv

theorem size_withChild (h : t.isInternal = true) : (t.withChild b u).size + (t.child b).size = t.size + u.size := by
  cases t with
  | absent => cases h
  | leaf d => cases h
  | node l r =>
    cases b <;> simp only [withChild, child, size, Bool.false_eq_true, if_true, if_false] <;> omega

/-- Inserting a code makes one node for each of its bits, and the top where it is absent. -/
theorem size_insertCode_le (h : t.insertCode c p = some u) : u.size ≤ t.size + p.length + 1 := by
  induction p generalizing t u with
  | nil =>
    obtain ⟨rfl, rfl⟩ := insertCode_nil_eq_some_iff.1 h
    exact Nat.le_refl 1
  | cons b p ih =>
    obtain ⟨hleaf, v, hv, rfl⟩ := insertCode_cons_eq_some_iff.1 h
    have hsize := ih hv
    rw [List.length_cons]
    cases t with
    | absent =>
      have htop : (absent.withChild b v).size = 1 + v.size := by cases b <;> simp [withChild, child, size]
      simp only [child, size] at hsize ⊢
      omega
    | leaf d => exact absurd rfl (hleaf d)
    | node l r =>
      have := size_withChild (t := .node l r) (b := b) (u := v) rfl
      omega

/-- Below an Internal node, inserting a code makes at most one node for each of its bits. -/
theorem size_insertCode_le_of_isInternal (ht : t.isInternal = true) (h : t.insertCode c p = some u) :
    u.size ≤ t.size + p.length := by
  cases p with
  | nil =>
    obtain ⟨rfl, -⟩ := insertCode_nil_eq_some_iff.1 h
    cases ht
  | cons b p =>
    obtain ⟨-, v, hv, rfl⟩ := insertCode_cons_eq_some_iff.1 h
    have hsize := size_insertCode_le hv
    have := size_withChild (b := b) (u := v) ht
    rw [List.length_cons]
    omega

end

/-! ## The trie of a list of codes -/

/-- The trie holds the codes of a list of (code, symbol) pairs: the Leaves stand at their ends, and the Internal nodes are the top
and the proper prefixes of the codes (R180). -/
structure Holds (t : Trie) (L : List (List Bool × Byte)) : Prop where
  leaf_iff : ∀ q d, t.follow q = leaf d ↔ (q, d) ∈ L
  internal_iff : ∀ q, (t.follow q).isInternal = true ↔ q = [] ∨ ∃ x ∈ L, q <+: x.1 ∧ q ≠ x.1

namespace Holds

variable {t u : Trie} {L : List (List Bool × Byte)} {p q : List Bool} {c : Byte}

theorem top : Holds (.node .absent .absent) [] where
  leaf_iff q d := by
    rcases q with _ | ⟨b, q⟩
    · simp
    · cases b <;> simp [child]
  internal_iff q := by
    rcases q with _ | ⟨b, q⟩
    · simp [isInternal]
    · cases b <;> simp [child, isInternal]

theorem insertCode (h : t.Holds L) (hu : t.insertCode c p = some u) : u.Holds (L ++ [(p, c)]) where
  leaf_iff q d := by
    rw [follow_insertCode_eq_leaf_iff hu, h.leaf_iff, List.mem_append, List.mem_singleton, Prod.mk.injEq, or_comm]
  internal_iff q := by
    rw [isInternal_follow_insertCode_iff hu, h.internal_iff]
    simp only [List.mem_append, List.mem_singleton, or_and_right, exists_or, exists_eq_left]
    rw [or_comm, or_assoc]

/-- Nothing stands at the end of a nonempty path that is comparable with no code. -/
theorem follow_eq_absent (h : t.Holds L) (hp : p ≠ []) (hno : ∀ x ∈ L, ¬ Comparable x.1 p) : t.follow p = absent := by
  cases hf : t.follow p with
  | absent => rfl
  | leaf d => exact absurd (.inl (List.prefix_refl p)) (hno (p, d) ((h.leaf_iff p d).1 hf))
  | node l r =>
    rcases (h.internal_iff p).1 (by rw [hf]; rfl) with hnil | ⟨x, hx, hpre, -⟩
    · exact absurd hnil hp
    · exact absurd (.inr hpre) (hno x hx)

/-- A nonempty code collides exactly when it is comparable with a code that the trie holds (R181). -/
theorem insertCode_eq_none_iff (h : t.Holds L) (hp : p ≠ []) :
    t.insertCode c p = none ↔ ∃ x ∈ L, Comparable x.1 p := by
  constructor
  · intro hnone
    by_contra! hno
    obtain ⟨u, hu⟩ := exists_insertCode (c := c) (h.follow_eq_absent hp hno) fun q d hq _ hleaf =>
      hno (q, d) ((h.leaf_iff q d).1 hleaf) (.inl hq)
    cases hnone.symm.trans hu
  · rintro ⟨⟨q, d⟩, hmem, hcomp⟩
    by_contra hsome
    obtain ⟨u, hu⟩ := Option.ne_none_iff_exists'.1 hsome
    have habsent := follow_eq_absent_of_insertCode hu
    have hleaf := (h.leaf_iff q d).2 hmem
    have heq : q ≠ p := fun heq => by cases hleaf.symm.trans (heq ▸ habsent)
    rcases hcomp with hpre | hpre
    · have hinternal := (isInternal_follow_insertCode_iff hu q).2 (.inl ⟨hpre, heq⟩)
      rw [(follow_insertCode_eq_leaf_iff hu q).2 (.inr hleaf)] at hinternal
      cases hinternal
    · have hinternal := (h.internal_iff p).2 (.inr ⟨_, hmem, hpre, Ne.symm heq⟩)
      rw [habsent] at hinternal
      cases hinternal

end Holds

end Trie

end Sys2Proof.Machine
end

section
/-! PROOFS. `BuildTrie()` (44_decode_trie.md R181): the codes that the trie of a CodeTable holds, when one collides, and how many
nodes they make. -/

namespace Sys2Proof.Machine

/-! ## BuildTrie as a fold over the codes -/

/-- The valid entries of a CodeTable in the order in which they are listed, each as its code and its symbol. -/
def codesOf (ct : List (Nat × CtEntry)) : List (List Bool × Byte) :=
  (ct.filter fun x => x.2.valid).map fun x => (codeBits x.2, BitVec.ofNat 8 x.1)

/-- `BuildTrie()` on one valid entry (R181). -/
def insertEntry (t : Trie) (x : List Bool × Byte) : Except Raise Trie :=
  match t.insertCode x.2 x.1 with
  | some u => .ok u
  | none => .error ⟨.tableNotPrefixFree, BitVec.ofNat 32 x.2.toNat⟩

theorem insertEntry_eq_ok_iff {t u : Trie} {x : List Bool × Byte} :
    insertEntry t x = .ok u ↔ t.insertCode x.2 x.1 = some u := by
  unfold insertEntry
  cases t.insertCode x.2 x.1 <;> simp

theorem insertEntry_of_none {t : Trie} {x : List Bool × Byte} (h : t.insertCode x.2 x.1 = none) :
    insertEntry t x = .error ⟨.tableNotPrefixFree, BitVec.ofNat 32 x.2.toNat⟩ := by
  rw [insertEntry, h]

/-- `BuildTrie()` inserts the valid entries one after the other (R181). -/
theorem buildTrie_eq_foldlM {ct : List (Nat × CtEntry)} (hk : ∀ x ∈ ct, x.1 < 256) (t : Trie) :
    buildTrie t ct = (codesOf ct).foldlM insertEntry t := by
  induction ct generalizing t with
  | nil => rfl
  | cons x ct ih =>
    obtain ⟨k, e⟩ := x
    obtain ⟨hlt, hk⟩ := List.forall_mem_cons.1 hk
    have hsym : (BitVec.ofNat 8 k).toNat = k := Nat.mod_eq_of_lt hlt
    cases hv : e.valid with
    | false => simp [buildTrie, codesOf, hv, ih hk]
    | true =>
      cases hins : t.insertCode (BitVec.ofNat 8 k) (codeBits e) with
      | none => simp [buildTrie, codesOf, hv, insertEntry, hins, hsym, bind, Except.bind]
      | some u => simp [buildTrie, codesOf, hv, insertEntry, hins, ih hk, bind, Except.bind]

theorem trieOf_eq_foldlM {ct : List (Nat × CtEntry)} (hc : CanonicalTable ct) :
    trieOf ct = (codesOf ct).foldlM insertEntry (.node .absent .absent) :=
  buildTrie_eq_foldlM (fun x hx => (((Sparse.wfOr_iff _ _ _).1 hc).2 x hx).1) _

/-! ## The trie that BuildTrie makes -/

namespace Trie.Holds

variable {t u : Trie} {L K : List (List Bool × Byte)}

/-- What `BuildTrie()` makes holds the codes inserted. -/
theorem foldlM_insertEntry (h : t.Holds L) (hu : K.foldlM insertEntry t = .ok u) : u.Holds (L ++ K) := by
  induction K generalizing t L with
  | nil =>
    cases hu
    rwa [List.append_nil]
  | cons x K ih =>
    rw [List.foldlM_cons] at hu
    cases hx : insertEntry t x with
    | error r =>
      rw [hx] at hu
      cases hu
    | ok v =>
      rw [hx] at hu
      rw [List.append_cons]
      exact ih (h.insertCode (insertEntry_eq_ok_iff.1 hx)) hu

/-- Nonempty codes of which no two are comparable are all inserted. -/
theorem exists_foldlM_insertEntry (h : t.Holds L) (hne : ∀ x ∈ K, x.1 ≠ [])
    (hpf : (L ++ K).Pairwise fun x y => ¬ Comparable x.1 y.1) : ∃ u, K.foldlM insertEntry t = .ok u := by
  induction K generalizing t L with
  | nil => exact ⟨t, rfl⟩
  | cons x K ih =>
    obtain ⟨hx, hne⟩ := List.forall_mem_cons.1 hne
    have hfree : ¬ ∃ y ∈ L, Comparable y.1 x.1 := fun ⟨y, hy, hcomp⟩ =>
      (List.pairwise_append.1 hpf).2.2 y hy x List.mem_cons_self hcomp
    obtain ⟨v, hv⟩ := Option.ne_none_iff_exists'.1 ((h.insertCode_eq_none_iff (c := x.2) hx).not.2 hfree)
    rw [List.append_cons] at hpf
    obtain ⟨u, hu⟩ := ih (h.insertCode hv) hne hpf
    exact ⟨u, by rw [List.foldlM_cons, insertEntry_eq_ok_iff.2 hv]; exact hu⟩

end Trie.Holds

/-- An error of `BuildTrie()` is a collision. -/
theorem cause_of_foldlM_insertEntry {L : List (List Bool × Byte)} {t : Trie} {r : Raise}
    (h : L.foldlM insertEntry t = .error r) : r.cause = .tableNotPrefixFree := by
  induction L generalizing t with
  | nil => cases h
  | cons x L ih =>
    rw [List.foldlM_cons] at h
    cases hx : t.insertCode x.2 x.1 with
    | none =>
      rw [insertEntry_of_none hx] at h
      cases h
      rfl
    | some u =>
      rw [insertEntry_eq_ok_iff.2 hx] at h
      exact ih h

/-- Codes of at most m bits make at most m nodes each. -/
theorem size_of_foldlM_insertEntry {L : List (List Bool × Byte)} {m : Nat} {t u : Trie} (ht : t.isInternal = true)
    (hlen : ∀ x ∈ L, x.1.length ≤ m) (h : L.foldlM insertEntry t = .ok u) : u.size ≤ t.size + m * L.length := by
  induction L generalizing t with
  | nil =>
    cases h
    exact Nat.le_add_right _ _
  | cons x L ih =>
    obtain ⟨hx, hlen⟩ := List.forall_mem_cons.1 hlen
    rw [List.foldlM_cons] at h
    cases hv : insertEntry t x with
    | error r =>
      rw [hv] at h
      cases h
    | ok v =>
      rw [hv] at h
      rw [insertEntry_eq_ok_iff] at hv
      have hfirst := Trie.size_insertCode_le_of_isInternal ht hv
      have hrest := ih (t := v) ((Trie.isInternal_follow_insertCode_iff hv []).2 (.inr ht)) hlen h
      rw [List.length_cons, Nat.mul_succ]
      omega

/-! ## The codes of a CodeTable -/

theorem Sparse.pairwise_of_sorted {α : Type} {m : List (Nat × α)} (h : Sparse.sorted m = true) :
    m.Pairwise fun x y => x.1 < y.1 := by
  induction m with
  | nil => exact .nil
  | cons x m ih =>
    obtain ⟨hlt, hs⟩ := (Sparse.sorted_cons x m).1 h
    exact .cons hlt (ih hs)

section
variable {ct : List (Nat × CtEntry)} {trie : Trie} {p q : List Bool} {c d : Byte}

theorem mem_codesOf (hc : CanonicalTable ct) : (q, d) ∈ codesOf ct ↔ HasCode ct d ∧ codeOf ct d = q := by
  simp only [codesOf, List.mem_map, List.mem_filter, Prod.mk.injEq, Prod.exists]
  constructor
  · rintro ⟨k, e, ⟨hmem, hv⟩, rfl, rfl⟩
    obtain ⟨hat, -⟩ := ctAt_of_mem ct hc k e hmem
    rw [HasCode, codeOf, hat]
    exact ⟨hv, rfl⟩
  · rintro ⟨hd, rfl⟩
    exact ⟨d.toNat, ctAt ct d, ⟨mem_of_hasCode hd, hd⟩, rfl, BitVec.ofNat_toNat 8 d⟩

/-- The symbols rise. -/
theorem codesOf_pairwise (hc : CanonicalTable ct) : (codesOf ct).Pairwise fun x y => x.2.toNat < y.2.toNat := by
  obtain ⟨hs, hk⟩ := (Sparse.wfOr_iff _ _ _).1 hc
  refine List.pairwise_map.2 (((Sparse.pairwise_of_sorted hs).imp_of_mem fun {x y} hx hy hlt => ?_).filter _)
  rwa [BitVec.toNat_ofNat, BitVec.toNat_ofNat, Nat.mod_eq_of_lt (hk x hx).1, Nat.mod_eq_of_lt (hk y hy).1]

theorem codesOf_length_le (hc : CanonicalTable ct) : (codesOf ct).length ≤ 256 := by
  have hnodup : ((codesOf ct).map Prod.snd).Nodup :=
    List.pairwise_map.2 ((codesOf_pairwise hc).imp fun hlt heq => hlt.ne (congrArg BitVec.toNat heq))
  have hle := (hnodup.subperm fun c _ => mem_allSymbols c).length_le
  simpa using hle

theorem length_codeOf_of_legal (hl : LegalTable ct) (hd : HasCode ct d) :
    1 ≤ (codeOf ct d).length ∧ (codeOf ct d).length ≤ 32 := by
  have hlegal := hl d hd
  rw [CtEntry.illegal, Bool.or_eq_false_iff, Bool.or_eq_false_iff] at hlegal
  obtain ⟨⟨hmin, hmax⟩, -⟩ := hlegal
  rw [codeOf_length]
  exact ⟨Nat.not_lt.1 (of_decide_eq_false hmin), Nat.not_lt.1 (of_decide_eq_false hmax)⟩

theorem codeOf_ne_nil_of_legal (hl : LegalTable ct) (hd : HasCode ct d) : codeOf ct d ≠ [] :=
  List.length_pos_iff.1 (length_codeOf_of_legal hl hd).1

/-! ## BuildTrie on a CodeTable -/

theorem holds_of_trieOf (hc : CanonicalTable ct) (h : trieOf ct = .ok trie) : trie.Holds (codesOf ct) :=
  Trie.Holds.top.foldlM_insertEntry ((trieOf_eq_foldlM hc).symm.trans h)

theorem ne_nil_of_mem_codesOf (hc : CanonicalTable ct) (hl : LegalTable ct) : ∀ x ∈ codesOf ct, x.1 ≠ [] := by
  rintro ⟨q, d⟩ hx
  obtain ⟨hd, rfl⟩ := (mem_codesOf hc).1 hx
  exact codeOf_ne_nil_of_legal hl hd

/-- `BuildTrie()` succeeds on a legal table in which no code begins another (R181). -/
theorem exists_trieOf (hc : CanonicalTable ct) (hl : LegalTable ct) (hp : PrefixFree ct) :
    ∃ trie, trieOf ct = .ok trie := by
  rw [trieOf_eq_foldlM hc]
  refine Trie.Holds.top.exists_foldlM_insertEntry (ne_nil_of_mem_codesOf hc hl)
    ((codesOf_pairwise hc).imp_of_mem ?_)
  rintro ⟨q, a⟩ ⟨r, b⟩ hx hy hlt
  obtain ⟨ha, rfl⟩ := (mem_codesOf hc).1 hx
  obtain ⟨hb, rfl⟩ := (mem_codesOf hc).1 hy
  exact hp a b ha hb fun heq => hlt.ne (congrArg BitVec.toNat heq)

/-- `BuildTrie()` reports the first symbol whose code is comparable with that of an earlier one (R181). -/
theorem trieOf_of_collision (hc : CanonicalTable ct) (hl : LegalTable ct) (hd : HasCode ct d) (hcode : HasCode ct c)
    (hlt : d.toNat < c.toNat) (hcomp : Comparable (codeOf ct d) (codeOf ct c))
    (hfirst : ∀ a b, HasCode ct a → HasCode ct b → a.toNat < b.toNat → b.toNat < c.toNat →
      ¬ Comparable (codeOf ct a) (codeOf ct b)) :
    trieOf ct = .error ⟨.tableNotPrefixFree, BitVec.ofNat 32 c.toNat⟩ := by
  obtain ⟨pre, post, hsplit⟩ := List.append_of_mem ((mem_codesOf hc).2 ⟨hcode, rfl⟩)
  have hmem : ∀ x ∈ pre, x ∈ codesOf ct := fun x hx => hsplit ▸ List.mem_append_left _ hx
  have hrise := codesOf_pairwise hc
  rw [hsplit, List.pairwise_append, List.pairwise_cons] at hrise
  obtain ⟨hpre, ⟨hpost, -⟩, hbefore⟩ := hrise
  have hearlier : (codeOf ct d, d) ∈ pre := by
    have hd' := (mem_codesOf hc).2 ⟨hd, rfl⟩
    rw [hsplit, List.mem_append, List.mem_cons] at hd'
    rcases hd' with hd' | heq | hd'
    · exact hd'
    · rw [(Prod.mk.inj heq).2] at hlt
      exact absurd hlt (Nat.lt_irrefl _)
    · exact absurd hlt (hpost _ hd').asymm
  obtain ⟨t, ht⟩ := Trie.Holds.top.exists_foldlM_insertEntry
    (fun x hx => ne_nil_of_mem_codesOf hc hl x (hmem x hx)) (hpre.imp_of_mem (by
      rintro ⟨q, a⟩ ⟨r, b⟩ hx hy hab
      obtain ⟨ha, rfl⟩ := (mem_codesOf hc).1 (hmem _ hx)
      obtain ⟨hb, rfl⟩ := (mem_codesOf hc).1 (hmem _ hy)
      exact hfirst a b ha hb hab (hbefore _ hy _ List.mem_cons_self)))
  have hholds := Trie.Holds.top.foldlM_insertEntry ht
  have hnone := (hholds.insertCode_eq_none_iff (c := c) (codeOf_ne_nil_of_legal hl hcode)).2 ⟨_, hearlier, hcomp⟩
  rw [trieOf_eq_foldlM hc, hsplit, List.foldlM_append, ht]
  show ((codeOf ct c, c) :: post).foldlM insertEntry t = _
  rw [List.foldlM_cons, insertEntry_of_none hnone]
  rfl

/-! ## Where a path leads in the trie of a CodeTable -/

variable (hc : CanonicalTable ct) (h : trie.Holds (codesOf ct))
include hc h

theorem follow_eq_leaf_iff : trie.follow q = .leaf d ↔ HasCode ct d ∧ codeOf ct d = q := by
  rw [h.leaf_iff, mem_codesOf hc]

theorem isInternal_follow_iff :
    (trie.follow q).isInternal = true ↔ q = [] ∨ ∃ d, HasCode ct d ∧ q <+: codeOf ct d ∧ q ≠ codeOf ct d := by
  rw [h.internal_iff]
  refine or_congr_right ⟨?_, fun ⟨d, hd, hq⟩ => ⟨_, (mem_codesOf hc).2 ⟨hd, rfl⟩, hq⟩⟩
  rintro ⟨⟨r, d⟩, hx, hq⟩
  obtain ⟨hd, rfl⟩ := (mem_codesOf hc).1 hx
  exact ⟨d, hd, hq⟩

theorem follow_eq_absent_of_not_comparable (hq : q ≠ []) (hno : ∀ d, HasCode ct d → ¬ Comparable (codeOf ct d) q) :
    trie.follow q = .absent := by
  refine h.follow_eq_absent hq ?_
  rintro ⟨r, d⟩ hx
  obtain ⟨hd, rfl⟩ := (mem_codesOf hc).1 hx
  exact hno d hd

end

end Sys2Proof.Machine
end

section
/-! PROOFS. The walk of DECODE (44_decode_trie.md R183 to R185): over the codes of symbols, and what can end it. -/

namespace Sys2Proof.Machine

/-! ## One bit -/

section
variable {trie cur : Trie} {bufBytes t out : Nat} {start : Option Nat} {b : Bool} {c : Byte}

theorem walkTrie_cons_of_absent (h : cur.child b = .absent) (bits : List Bool) :
    walkTrie trie bufBytes t out cur start (b :: bits) = .error ⟨.noMatch, BitVec.ofNat 32 t⟩ := by
  rw [walkTrie, h]

/-- A Leaf emits its symbol, or finds DST full. -/
theorem walkTrie_cons_of_leaf (h : cur.child b = .leaf c) (bits : List Bool) :
    walkTrie trie bufBytes t out cur start (b :: bits) =
      if out = bufBytes then .error ⟨.dstOverflow, BitVec.ofNat 32 t⟩
      else (walkTrie trie bufBytes (t + 1) (out + 1) trie none bits).map (c :: ·) := by
  rw [walkTrie, h]
  refine if_congr Iff.rfl rfl ?_
  cases walkTrie trie bufBytes (t + 1) (out + 1) trie none bits <;> rfl

theorem walkTrie_cons_of_internal (h : (cur.child b).isInternal = true) (bits : List Bool) :
    walkTrie trie bufBytes t out cur start (b :: bits) =
      walkTrie trie bufBytes (t + 1) out (cur.child b) (some (start.getD t)) bits := by
  rw [walkTrie]
  cases hb : cur.child b with
  | absent =>
    rw [hb] at h
    cases h
  | leaf d =>
    rw [hb] at h
    cases h
  | node l r => rfl

end

/-! ## The bits of a code -/

/-- `start` of the walk after the bits q of a code that begins at bit t (R183). -/
def startAfter (q : List Bool) (t : Nat) : Option Nat := if q = [] then none else some t

section
variable {trie : Trie} {bufBytes t out : Nat} {b : Bool} {c : Byte} {q : List Bool}

/-- From the root, the walk goes to the Internal node at the end of a path. -/
theorem walkTrie_append_of_internal (h : (trie.follow q).isInternal = true) (bits : List Bool) :
    walkTrie trie bufBytes t out trie none (q ++ bits) =
      walkTrie trie bufBytes (t + q.length) out (trie.follow q) (startAfter q t) bits := by
  induction q using List.reverseRecOn generalizing bits with
  | nil => rfl
  | append_singleton q b ih =>
    rw [Trie.follow_concat] at h ⊢
    have hq : (trie.follow q).isInternal = true := Trie.isInternal_of_child fun habs => by
      rw [habs] at h
      cases h
    rw [List.append_assoc, List.singleton_append, ih hq, walkTrie_cons_of_internal h, List.length_append, startAfter,
      startAfter]
    by_cases hnil : q = []
    · simp [hnil]
    · simp [hnil, Nat.add_assoc]

/-- A bit without a child ends the walk with NO_MATCH at its index (R183). -/
theorem walkTrie_of_noMatch (hq : (trie.follow q).isInternal = true) (habs : trie.follow (q ++ [b]) = .absent)
    (bits : List Bool) :
    walkTrie trie bufBytes t out trie none (q ++ b :: bits) = .error ⟨.noMatch, BitVec.ofNat 32 (t + q.length)⟩ := by
  rw [walkTrie_append_of_internal hq]
  exact walkTrie_cons_of_absent (Trie.follow_concat.symm.trans habs) bits

/-- Bits that end inside a code give PARTIAL_CODE at the first bit of that code (R185). -/
theorem walkTrie_of_partialCode (hq : (trie.follow q).isInternal = true) (hne : q ≠ []) :
    walkTrie trie bufBytes t out trie none q = .error ⟨.partialCode, BitVec.ofNat 32 t⟩ := by
  have h := walkTrie_append_of_internal (bufBytes := bufBytes) (t := t) (out := out) hq []
  rw [List.append_nil, startAfter, if_neg hne] at h
  exact h

/-- A whole code emits its symbol, and the walk goes on at the root; when DST is full, it gives DST_OVERFLOW at the last bit of
the code (R183). -/
theorem walkTrie_of_code (hleaf : trie.follow q = .leaf c) (hne : q ≠ []) (bits : List Bool) :
    walkTrie trie bufBytes t out trie none (q ++ bits) =
      if out = bufBytes then .error ⟨.dstOverflow, BitVec.ofNat 32 (t + q.length - 1)⟩
      else (walkTrie trie bufBytes (t + q.length) (out + 1) trie none bits).map (c :: ·) := by
  obtain ⟨p, b, rfl⟩ := (List.eq_nil_or_concat' q).resolve_left hne
  have hint : (trie.follow p).isInternal = true := Trie.isInternal_of_child (b := b) (by
    rw [← Trie.follow_concat, hleaf]
    exact nofun)
  rw [List.append_assoc, List.singleton_append, walkTrie_append_of_internal hint,
    walkTrie_cons_of_leaf (Trie.follow_concat.symm.trans hleaf), List.length_append]
  rfl

/-- The codes of symbols that fit emit these symbols, and the walk goes on at the root. -/
theorem walkTrie_append_of_symbols {code : Byte → List Bool} {symbols : List Byte}
    (hleaf : ∀ c ∈ symbols, trie.follow (code c) = .leaf c ∧ code c ≠ []) (hfit : out + symbols.length ≤ bufBytes)
    (bits : List Bool) :
    walkTrie trie bufBytes t out trie none (symbols.flatMap code ++ bits) =
      (walkTrie trie bufBytes (t + (symbols.flatMap code).length) (out + symbols.length) trie none bits).map
        (symbols ++ ·) := by
  induction symbols generalizing t out with
  | nil =>
    show walkTrie trie bufBytes t out trie none bits = (walkTrie trie bufBytes t out trie none bits).map id
    cases walkTrie trie bufBytes t out trie none bits <;> rfl
  | cons c cs ih =>
    obtain ⟨⟨hc, hne⟩, hcs⟩ := List.forall_mem_cons.1 hleaf
    rw [List.length_cons] at hfit
    rw [List.flatMap_cons, List.append_assoc, walkTrie_of_code hc hne, if_neg (by omega), ih hcs (by omega), List.length_append,
      List.length_cons, Nat.add_assoc t, Nat.add_right_comm out, ← Nat.add_assoc out]
    cases walkTrie trie bufBytes (t + ((code c).length + (cs.flatMap code).length)) (out + cs.length + 1) trie none bits <;>
      rfl

/-- Where every Internal node has both children, the walk never misses a child. -/
theorem cause_of_walkTrie (hfull : ∀ q b, (trie.follow q).isInternal = true → trie.follow (q ++ [b]) ≠ .absent)
    (htop : trie.isInternal = true) (hq : (trie.follow q).isInternal = true) {start : Option Nat} {bits : List Bool}
    {r : Raise} (h : walkTrie trie bufBytes t out (trie.follow q) start bits = .error r) : r.cause ≠ .noMatch := by
  induction bits generalizing t out start q r with
  | nil =>
    cases start with
    | none => cases h
    | some first =>
      cases h
      exact nofun
  | cons b bits ih =>
    cases hb : (trie.follow q).child b with
    | absent => exact absurd (Trie.follow_concat.trans hb) (hfull q b hq)
    | leaf c =>
      rw [walkTrie_cons_of_leaf hb] at h
      split at h
      · cases h
        exact nofun
      · cases hrest : walkTrie trie bufBytes (t + 1) (out + 1) trie none bits with
        | ok rest =>
          rw [hrest] at h
          cases h
        | error r' =>
          rw [hrest] at h
          cases h
          exact ih (q := []) htop hrest
    | node l r' =>
      have hint : ((trie.follow q).child b).isInternal = true := by rw [hb]; rfl
      rw [walkTrie_cons_of_internal hint] at h
      rw [← Trie.follow_concat] at hint h
      exact ih hint h

end

end Sys2Proof.Machine
end

section
/-! PROOFS. The checks of DECODE in their order (44_decode_trie.md R181, R183), and the statements of the family "decode trie". -/

namespace Sys2Proof.Machine

/-! ## The checks in their order -/

theorem Comparable.symm {p q : List Bool} (h : Comparable p q) : Comparable q p := Or.symm h

section
variable {s : State}

theorem decodedBytes_of_long (h : s.params.bufBytes < s.srcLen.toNat) :
    decodedBytes s = .error ⟨.badSrcLen, BitVec.ofNat 32 s.srcLen.toNat⟩ := by
  rw [decodedBytes, if_pos h, BitVec.ofNat_toNat]

theorem decodedBytes_of_legal (hlen : s.srcLen.toNat ≤ s.params.bufBytes) (hc : CanonicalTable s.ct)
    (hl : LegalTable s.ct) :
    decodedBytes s =
      (trieOf s.ct).bind fun trie => walkTrie trie s.params.bufBytes 0 0 trie none (srcBits s) := by
  rw [decodedBytes, if_neg (Nat.not_lt.2 hlen), validateCt_of_legal hc hl]
  cases trieOf s.ct <;> rfl

/-- Where the bits begin with the codes of symbols that fit, the bits behind them decide. -/
theorem decodedBytes_at {symbols : List Byte} {bits : List Bool} (hlen : s.srcLen.toNat ≤ s.params.bufBytes)
    (hc : CanonicalTable s.ct) (hl : LegalTable s.ct) (hp : PrefixFree s.ct) (hcode : ∀ c ∈ symbols, HasCode s.ct c)
    (hfit : symbols.length ≤ s.params.bufBytes) (hbits : srcBits s = bitsOf s.ct symbols ++ bits) :
    ∃ trie, trie.Holds (codesOf s.ct) ∧ decodedBytes s =
      (walkTrie trie s.params.bufBytes (bitsOf s.ct symbols).length symbols.length trie none bits).map (symbols ++ ·) := by
  obtain ⟨trie, htrie⟩ := exists_trieOf hc hl hp
  have hholds := holds_of_trieOf hc htrie
  refine ⟨trie, hholds, ?_⟩
  have hwalk := walkTrie_append_of_symbols (t := 0) (out := 0) (code := codeOf s.ct)
    (fun c hmem => ⟨(follow_eq_leaf_iff hc hholds).2 ⟨hcode c hmem, rfl⟩, codeOf_ne_nil_of_legal hl (hcode c hmem)⟩)
    ((Nat.zero_add _).trans_le hfit) bits
  rw [Nat.zero_add, Nat.zero_add] at hwalk
  rw [decodedBytes_of_legal hlen hc hl, htrie, hbits]
  exact hwalk

/-- The codes of symbols that fit decode to these symbols. -/
theorem decodedBytes_of_symbols {symbols : List Byte} (hlen : s.srcLen.toNat ≤ s.params.bufBytes)
    (hc : CanonicalTable s.ct) (hl : LegalTable s.ct) (hp : PrefixFree s.ct) (hcode : ∀ c ∈ symbols, HasCode s.ct c)
    (hfit : symbols.length ≤ s.params.bufBytes) (hbits : srcBits s = bitsOf s.ct symbols) :
    decodedBytes s = .ok symbols := by
  obtain ⟨trie, -, hat⟩ := decodedBytes_at hlen hc hl hp hcode hfit (hbits.trans (List.append_nil _).symm)
  exact hat.trans (congrArg Except.ok (List.append_nil symbols))

theorem exec_decode_of_ok {b : List Byte} (h : decodedBytes s = .ok b) :
    exec .decode s = .next (completeOk (setOutput b 0 (nbits s) s)) := by
  rcases exec_decode s with ⟨r, hr, -⟩ | ⟨b', hb, e⟩
  · cases h.symm.trans hr
  · cases h.symm.trans hb
    exact e

theorem cause_of_validateCt {ct : List (Nat × CtEntry)} {r : Raise} (h : validateCt ct = .error r) :
    r.cause = .badCodeEntry := by
  induction ct with
  | nil => cases h
  | cons x ct ih =>
    rw [validateCt_cons] at h
    split at h
    · cases h
      rfl
    · exact ih h

theorem Cause.eq_noMatch_of_code {c : Cause} (h : c.code = 0x41) : c = .noMatch := by
  revert h
  cases c <;> decide

/-- NO_MATCH comes from the walk only. -/
theorem walk_of_noMatch {r : Raise} (hc : CanonicalTable s.ct) (h : decodedBytes s = .error r) (hr : r.cause = .noMatch) :
    ∃ trie, trieOf s.ct = .ok trie ∧ walkTrie trie s.params.bufBytes 0 0 trie none (srcBits s) = .error r := by
  unfold decodedBytes at h
  split at h
  · cases h
    cases hr
  · split at h
    · next hct =>
      cases h
      cases hr.symm.trans (cause_of_validateCt hct)
    · split at h
      · next hct =>
        cases h
        cases hr.symm.trans (cause_of_foldlM_insertEntry ((trieOf_eq_foldlM hc).symm.trans hct))
      · next trie htrie => exact ⟨trie, htrie, h⟩

theorem outLen_of_bytes {bytes : List Byte} (hp : s.params.wellFormed = true) (hfit : bytes.length ≤ s.params.bufBytes)
    (p n : Nat) : (completeOk (setOutput bytes p n s)).outLen.toNat = bytes.length := by
  have := bufBytes_le hp
  rw [completeOk_outLen, setOutput_outLen, BitVec.toNat_ofNat]
  omega

end

/-- With a complete table, an Internal node has both children (R188). -/
theorem follow_concat_ne_absent {ct : List (Nat × CtEntry)} {trie : Trie} (hc : CanonicalTable ct)
    (h : trie.Holds (codesOf ct)) (hcomplete : CompleteTable ct) (q : List Bool) (b : Bool)
    (hq : (trie.follow q).isInternal = true) : trie.follow (q ++ [b]) ≠ .absent := by
  obtain ⟨⟨c, hcode⟩, hgoes⟩ := hcomplete
  have hprefix : ∃ d, HasCode ct d ∧ q <+: codeOf ct d ∧ q ≠ codeOf ct d := by
    rcases (isInternal_follow_iff hc h).1 hq with rfl | hq'
    · refine ⟨c, hcode, List.nil_prefix, fun hnil => ?_⟩
      rw [(follow_eq_leaf_iff hc h).2 ⟨hcode, hnil.symm⟩] at hq
      cases hq
    · exact hq'
  obtain ⟨d, hd, hpre, hne⟩ := hprefix
  obtain ⟨e, he, hpre⟩ := hgoes q b d hd hpre hne
  intro habs
  by_cases heq : q ++ [b] = codeOf ct e
  · cases habs.symm.trans ((follow_eq_leaf_iff hc h).2 ⟨he, heq.symm⟩)
  · have hint := (isInternal_follow_iff hc h).2 (.inr ⟨e, he, hpre, heq⟩)
    rw [habs] at hint
    cases hint

/-! ## The statements -/

/-- Settles O43: the checks pass, and the walk emits the symbols. -/
theorem decodeWritesTheSymbols : Obligations.DecodeWritesTheSymbols := by
  intro s symbols hwf hc hlen hl hp hcode hbits hfit
  refine ⟨_, exec_decode_of_ok (decodedBytes_of_symbols hlen hc hl hp hcode hfit hbits), rfl, outLen_of_bytes hwf hfit _ _,
    ?_, fun j hj => readByte_output s symbols 0 _ hj, fun a ha => readByte_outside_output s symbols 0 _ ha⟩
  have hn := nbits_le s
  have hsrc := s.srcLen.isLt
  rw [completeOk_totalBits, setOutput_totalBits, BitVec.toNat_ofNat, Nat.mod_eq_of_lt (by omega)]
  rfl

/-- Settles O44: the bits behind the symbols end at an absent child, inside a code, or at a Leaf when DST is full. -/
theorem decodeErrors : Obligations.DecodeErrors := by
  intro s reports
  have report {c : Cause} {arg : Nat} (h : decodedBytes s = .error ⟨c, BitVec.ofNat 32 arg⟩) :
      reports (c.errInfo s.curOp) arg := ⟨_, exec_decode_of_error h, rfl, rfl, rfl, rfl, rfl⟩
  refine ⟨fun h => report (decodedBytes_of_long h), fun hlen hc hl hp symbols hcode hfit => ?_⟩
  refine ⟨fun p b rest hpre hbits hno => report (c := .noMatch) ?_,
    fun p c hcp hpre hne hnil hbits => report (c := .partialCode) ?_,
    fun c rest hcp hfull hbits => report (c := .dstOverflow) ?_⟩
  · rw [List.append_assoc] at hbits
    obtain ⟨trie, hholds, hat⟩ := decodedBytes_at hlen hc hl hp hcode hfit hbits
    have hint : (trie.follow p).isInternal = true :=
      (isInternal_follow_iff hc hholds).2 (hpre.imp_right fun ⟨c, hcp, hpre⟩ => ⟨c, hcp, hpre, fun heq =>
        hno ⟨c, hcp, .inr (heq ▸ List.prefix_append p [b])⟩⟩)
    have habs : trie.follow (p ++ [b]) = .absent :=
      follow_eq_absent_of_not_comparable hc hholds (by simp) fun d hd hcomp => hno ⟨d, hd, hcomp.symm⟩
    rw [hat, walkTrie_of_noMatch hint habs]
    rfl
  · obtain ⟨trie, hholds, hat⟩ := decodedBytes_at hlen hc hl hp hcode hfit hbits
    rw [hat, walkTrie_of_partialCode ((isInternal_follow_iff hc hholds).2 (.inr ⟨c, hcp, hpre, hne⟩)) hnil]
    rfl
  · rw [List.append_assoc] at hbits
    obtain ⟨trie, hholds, hat⟩ := decodedBytes_at hlen hc hl hp hcode hfit hbits
    rw [hat, walkTrie_of_code ((follow_eq_leaf_iff hc hholds).2 ⟨hcp, rfl⟩) (codeOf_ne_nil_of_legal hl hcp), if_pos hfull]
    rfl

/-- Settles O45: the codes before it are inserted, and then it collides. -/
theorem collidingCodesAreReported : Obligations.CollidingCodesAreReported := by
  intro s a c hlen hc hl ha hcode hlt hcomp hfirst
  have hdecoded : decodedBytes s = .error ⟨.tableNotPrefixFree, BitVec.ofNat 32 c.toNat⟩ := by
    rw [decodedBytes_of_legal hlen hc hl, trieOf_of_collision hc hl ha hcode hlt hcomp hfirst]
    rfl
  exact ⟨_, exec_decode_of_error hdecoded, rfl, rfl, rfl⟩

/-- Settles O46: the root, and at most 32 nodes for each of at most 256 codes. -/
theorem trieFits : Obligations.TrieFits := by
  intro ct trie hc hl htrie
  have hlen : ∀ x ∈ codesOf ct, x.1.length ≤ 32 := by
    rintro ⟨q, d⟩ hx
    obtain ⟨hd, rfl⟩ := (mem_codesOf hc).1 hx
    exact (length_codeOf_of_legal hl hd).2
  have hsize := size_of_foldlM_insertEntry rfl hlen ((trieOf_eq_foldlM hc).symm.trans htrie)
  have hcount := codesOf_length_le hc
  have htop : (Trie.node .absent .absent).size = 1 := rfl
  omega

/-- Settles O47: no Internal node lacks a child, so the walk reports another cause, and no check before it reports NO_MATCH. -/
theorem completeTablesNeverMissAChild : Obligations.CompleteTablesNeverMissAChild := by
  intro s t hc hcomplete herr h
  rcases exec_decode s with ⟨r, hr, e⟩ | ⟨b, -, e⟩ <;> cases e.symm.trans h
  · intro hbad
    have hno : r.cause = .noMatch := Cause.eq_noMatch_of_code hbad
    obtain ⟨trie, htrie, hwalk⟩ := walk_of_noMatch hc hr hno
    have hholds := holds_of_trieOf hc htrie
    have htop : (trie.follow []).isInternal = true := (isInternal_follow_iff hc hholds).2 (.inl rfl)
    exact cause_of_walkTrie (follow_concat_ne_absent hc hholds hcomplete) htop htop hwalk hno
  · rw [completeOk_errInfo, setOutput_errInfo, herr]
    decide

end Sys2Proof.Machine
end

section
/-! PROOFS. The round trip (44_decode_trie.md R187): what ENCODE packs of a tree's codes, DECODE walks and gives back. -/

namespace Sys2Proof.Machine

/-- A loop that ends without an error has met symbols with codes only. -/
theorem hasCode_of_packLoop {ct : List (Nat × CtEntry)} {bufBytes i t : Nat} {bytes : List Byte} {b : List Bool}
    (h : packLoop ct bufBytes i t bytes = .ok b) : ∀ c ∈ bytes, HasCode ct c := by
  induction bytes generalizing i t b with
  | nil => exact nofun
  | cons c cs ih =>
    by_cases hc : HasCode ct c
    · by_cases hfit : ceilDiv8 (t + (codeOf ct c).length) ≤ bufBytes
      · rw [packLoop_cons_of_fits hc hfit] at h
        cases hrest : packLoop ct bufBytes (i + 1) (t + (codeOf ct c).length) cs with
        | error r =>
          rw [hrest] at h
          cases h
        | ok rest => exact List.forall_mem_cons.2 ⟨hc, ih hrest⟩
      · cases (packLoop_cons_of_overflow hc hfit cs).symm.trans h
    · cases (packLoop_cons_of_noCode hc cs).symm.trans h

/-- A successful ENCODE has found a code for every byte of SRC. -/
theorem hasCode_of_succeeds {s t : State} (h : Succeeds .encode s t) :
    ∀ c ∈ srcBytes s s.srcLen.toNat, HasCode s.ct c := by
  obtain ⟨-, b, hb, -⟩ := (succeeds_encode_iff s t).1 h
  unfold encodedBits at hb
  split at hb
  · cases hb
  · split at hb
    · cases hb
    · split at hb
      · cases hb
      · exact hasCode_of_packLoop hb

theorem treeValid_of_succeeds {s t : State} (h : Succeeds .buildTree s t) : t.treeValid = true := by
  obtain ⟨hexec, herr⟩ := h
  rcases exec_buildTree s with ⟨r, -, e⟩ | ⟨-, e⟩ <;> cases e.symm.trans hexec
  · cases herr
  · rfl

/-- The table that ASSIGN_CODES makes of a tree that BUILD_TREE made is one that DECODE takes (41_code_assigner.md R125). -/
theorem table_of_builtTree {s t : State} {ct : List (Nat × CtEntry)} (h : Succeeds .buildTree s t)
    (hct : assignedTable t.arena t.root = .ok ct) : CanonicalTable ct ∧ LegalTable ct ∧ PrefixFree ct := by
  have hv := treeValid_of_succeeds h
  have hassign : Succeeds .assignCodes t (completeOk (setCodeTable ct t)) := ⟨exec_assignCodes_of_ok hv hct, h.2⟩
  obtain ⟨hl, hp, -⟩ := assignedCodesArePrefixFree t _ _ hv (holdsTree_of_succeeds h) hassign
  exact ⟨canonicalTable_assignedTable hct, hl, hp⟩

/-- With the output of ENCODE in SRC, its length in SRC_LEN and its pad in PAD_IN, DECODE walks the codes of the input. -/
theorem srcBits_of_encoded {s t u : State} (hp : s.params.wellFormed = true) (h : Succeeds .encode s t)
    (hlen : u.srcLen = t.outLen) (hpad : u.padIn = t.padOut)
    (hsrc : ∀ m, m < t.outLen.toNat → srcByte u m = readByte t (0x20000 + m)) :
    u.srcLen.toNat ≤ s.params.bufBytes ∧ srcBits u = bitsOf s.ct (srcBytes s s.srcLen.toNat) := by
  obtain ⟨-, b, hb, rfl⟩ := (succeeds_encode_iff s t).1 h
  have hfit := encodedBits_fits hb
  rw [outLen_of_packBits hp hfit] at hsrc
  have hcount : u.srcLen.toNat = ceilDiv8 b.length := by rw [hlen, outLen_of_packBits hp hfit]
  have hfill : u.padIn.toNat = 8 * ceilDiv8 b.length - b.length := by
    rw [hpad, padOut_of_padLength, eight_mul_ceilDiv8, Nat.add_sub_cancel_left]
  rw [← bits_of_encodedBits hb]
  refine ⟨hcount.trans_le hfit, srcBits_eq_of_bits (nbits_of_packed hcount hfill) fun _ =>
    srcBit_of_packed fun m q hm hq => ?_⟩
  rw [← srcByte, hsrc m hm, readByte_packBits_bit _ _ hm hq]

/-- Settles O49: no code of the tree's table begins another, ENCODE packed the codes of the input, and DECODE walks just these. -/
theorem roundTripReproducesTheInput : Obligations.RoundTripReproducesTheInput := by
  intro bytes s1 t1 s2 t2 s3 t3 s4 hwf _ hbytes _ hbuild harena hroot _ hassign hct hlen hsrc hencode hparams hct4
    hlen4 hpad4 herr4 hsrc4
  have htable := assignedTable_of_succeeds hassign
  rw [harena, hroot] at htable
  obtain ⟨hc, hl, hp⟩ := table_of_builtTree hbuild htable
  obtain ⟨hfit, hbits⟩ := srcBits_of_encoded hwf hencode hlen4 hpad4 hsrc4
  have hcode := hasCode_of_succeeds hencode
  rw [hlen, hsrc, hct, ← hct4] at hcode hbits
  rw [← hct4] at hc hl hp
  rw [← hparams] at hwf hbytes hfit
  have hdecoded := decodedBytes_of_symbols hfit hc hl hp hcode hbytes hbits
  exact ⟨_, (succeeds_decode_iff s4 _).2 ⟨herr4, bytes, hdecoded, rfl⟩, outLen_of_bytes hwf hbytes _ _,
    fun j hj => readByte_output s4 bytes 0 _ hj⟩

end Sys2Proof.Machine
end

section
/-! PROOFS. The statements of the family "control": NOP and CLEAR (45_control.md R200, R201). -/

namespace Sys2Proof.Machine

@[simp] theorem ftAt_nil (i : Nat) : ftAt [] i = ⟨0, 0⟩ := rfl

@[simp] theorem nodeAt_nil (n : Nat) : nodeAt [] n = none := List.getElem?_nil

/-- Settles O22: NOP is the completion alone, which touches neither the memory nor the draws. -/
theorem nopOnlyCompletes : Obligations.NopOnlyCompletes := fun s =>
  ⟨completeOk s, exec_nop s, rfl, readByte_congr s (completeOk s) rfl rfl rfl⟩

/-- Settles O23: CLEAR is `clearCodec` and the completion; its empty tables read as the reset values, and neither operation
touches the memory or the draws. -/
theorem clearDropsTheCodecState : Obligations.ClearDropsTheCodecState := fun s =>
  ⟨completeOk (clearCodec s), exec_clear s, rfl, ftAt_nil, ctAt_nil, nodeAt_nil,
    readByte_congr s (completeOk (clearCodec s)) rfl rfl rfl⟩

end Sys2Proof.Machine
end

section
/-! PROOFS. The statements of the family "exceptions": in a state of the invariant every command answers a completion, so that a
step stops only on a host transaction in reset (60_exceptions.md R229, R214, R217). -/

namespace Sys2Proof.Machine

/-! ## The walk of a tree meets no EMPTY node -/

/-- Entering paths stops on a long path only. -/
theorem foldlM_enterPath_ne_noTree (L : List (List Bool × Byte)) (ct : List (Nat × CtEntry)) :
    L.foldlM enterPath ct ≠ .error .noTree := by
  induction L generalizing ct with
  | nil => exact nofun
  | cons x L ih =>
    rw [List.foldlM_cons]
    by_cases hx : x.1.length > Config.maxCodeLen
    · simp [enterPath, hx, bind, Except.bind]
    · simpa [enterPath, hx, bind, Except.bind] using ih (setPath ct x)

/-- In an arena that holds a tree, the walk of ASSIGN_CODES stops on a long path only (40_tree_builder.md R104). -/
theorem HoldsTree.assignedTable_ne_noTree {es : List FtEntry} {s : State} (h : HoldsTree es s) :
    assignedTable s.arena s.root ≠ .error .noTree := by
  rcases h.length_cases with ⟨e, rfl⟩ | hk
  · rw [h.assignedTable_single]
    exact nofun
  · rw [h.assignedTable_eq_foldlM hk]
    exact foldlM_enterPath_ne_noTree (leavesOf s) []

/-! ## What answers a next state -/

theorem inv_afterEvent {s : State} (h : s.Inv) : (afterEvent s).Inv := by
  obtain ⟨hd, hc⟩ := (inv_iff s).1 h
  exact (inv_iff _).2 ⟨{ hd with }, { hc with }⟩

section
variable {s : State} (htree : s.treeValid = true → ∃ es, HoldsTree es s)
include htree

/-- Where TREE_VALID is 1 only with a tree in the arena, every command answers a next state: ASSIGN_CODES alone could stop, and
it does not on a tree. -/
theorem exists_exec (i : Instr) : ∃ t, exec i s = .next t := by
  cases i with
  | nop => exact ⟨_, exec_nop s⟩
  | clear => exact ⟨_, exec_clear s⟩
  | buildTree => rcases exec_buildTree s with ⟨r, -, e⟩ | ⟨-, e⟩ <;> exact ⟨_, e⟩
  | assignCodes =>
    rcases exec_assignCodes s with ⟨-, e⟩ | ⟨-, ct, -, e⟩ | ⟨-, c, -, e⟩ | ⟨hv, hstop, -⟩
    · exact ⟨_, e⟩
    · exact ⟨_, e⟩
    · exact ⟨_, e⟩
    · obtain ⟨es, hes⟩ := htree hv
      exact absurd hstop hes.assignedTable_ne_noTree
  | encode => rcases exec_encode s with ⟨r, -, e⟩ | ⟨b, -, e⟩ <;> exact ⟨_, e⟩
  | decode => rcases exec_decode s with ⟨r, -, e⟩ | ⟨b, -, e⟩ <;> exact ⟨_, e⟩

/-- An accepted word runs to its command's completion or to that of ILLEGAL_CMD (30_encoding.md R81). -/
theorem exists_runCommand (w : Word) : ∃ t, runCommand w s = .next t := by
  rw [runCommand_eq]
  cases decodeWord w with
  | ok i => exact exists_exec htree i
  | error r => exact ⟨_, rfl⟩

theorem exists_sequencerMove : ∃ t, sequencerMove s = .next t := by
  unfold sequencerMove
  split
  · split
    · exact ⟨_, rfl⟩
    · exact ⟨_, rfl⟩
    · exact exists_runCommand htree _
  · exact ⟨_, rfl⟩

end

/-- The sequencer's step answers a next state. -/
theorem exists_step_of_sequencerNext {s : State} (h : s.Inv) (hn : SequencerNext s) : ∃ t, step s = .next t := by
  rw [step_sequencer s hn]
  exact exists_sequencerMove (inv_afterEvent h).tree

/-! ## The statements -/

/-- Settles O20, by the next event: the sequencer's move answers because the arena holds a tree where TREE_VALID is 1, a host
transaction because rst_n is high, an edge of rst_n always. -/
theorem invariantStatesNeverStop : Obligations.InvariantStatesNeverStop := by
  intro s h hkeeps
  cases hi : s.inputs with
  | nil => exact exists_step_of_sequencerNext h (.inl hi)
  | cons event rest =>
    cases event with
    | sequencer => exact exists_step_of_sequencerNext h (.inr ⟨rest, hi⟩)
    | read addr n => exact ⟨_, step_read (hkeeps.resolve_right fun ⟨hread, _⟩ => hread addr n rest hi) hi⟩
    | write addr n v => exact ⟨_, step_write (hkeeps.resolve_right fun ⟨_, hwrite⟩ => hwrite addr n v rest hi) hi⟩
    | resetLow => exact ⟨resetLow { s with inputs := rest }, by rw [step, hi]⟩
    | resetHigh => exact ⟨resetHigh { s with inputs := rest }, by rw [step, hi]⟩

/-- Settles O21: the completion sets one of DONE and ERR; what acceptance left of the other, of the report and of CUR_OP is in the
invariant. -/
theorem acceptedCommandsComplete : Obligations.AcceptedCommandsComplete := by
  intro s w h hr hs hn
  obtain ⟨hdone, herr, hinfo, harg⟩ := h.busyClean (by simp [State.busy, hs])
  obtain ⟨t, ht⟩ := exists_step_of_sequencerNext h hn
  refine ⟨t, ht, ?_⟩
  rw [step_sequencer s hn] at ht
  rcases sequencerMove_completes ht with ⟨-, hlow | hidle⟩ | ⟨hinit, -⟩ | ⟨-, u, -, hu, rfl | ⟨r, rfl⟩⟩
  · cases hr.symm.trans hlow
  · cases hs.symm.trans hidle
  · cases hs.symm.trans hinit
  · have hnoErr : u.err = false := hu.err.trans herr
    exact ⟨rfl, by simp [hnoErr], fun he => absurd (hnoErr.symm.trans he) Bool.false_ne_true,
      fun _ => ⟨hu.errInfo.trans hinfo, hu.errArg.trans harg⟩⟩
  · have hnotDone : u.done = false := hu.done.trans hdone
    exact ⟨rfl, by simp [hnotDone], fun _ => hu.curOp.trans (h.currentOp w hs),
      fun hd => absurd (hnotDone.symm.trans hd) Bool.false_ne_true⟩

end Sys2Proof.Machine
end

section
/-! PROOFS. Host transactions while BUSY = 1 (70_reset_and_hazards.md R245, R246): which writes are done, and what the registers
read. -/

namespace Sys2Proof.Machine

/-! ## Writes -/

theorem alwaysWritable_iff (g : Target) : alwaysWritable g = true ↔ g = .reg .status ∨ g = .reg .ctrl := by
  cases g with
  | reg r => cases r <;> simp [alwaysWritable]
  | _ => simp [alwaysWritable]

/-- A step that is a write to STATUS or CTRL does the write, in every sequencer state. -/
theorem step_write_always {s : State} {n : Width} {addr : BitVec 18} {v : Word} {rest : List Input} {g : Target}
    (hr : s.rstN = true) (hi : s.inputs = .write addr n v :: rest) (hg : target s.params addr.toNat n = some g)
    (hw : alwaysWritable g = true) :
    step s = .next { writeTarget n v { s with inputs := rest } g with resp := .ok } := by
  rw [step_write hr hi, hostWrite_done (s := afterEvent s) hg (.inr hw), afterEvent_of_inputs hi]

/-- An allowed access at the offset of a register reaches the register. -/
theorem target_of_allowed_reg {p : Params} {a : Nat} {n : Width} {r : Reg} (h : AllowedAccess p a n) (ha : a = r.offset) :
    target p a n = some (.reg r) := by
  have hle := r.offset_le
  obtain ⟨rfl, -⟩ := aligned_of_allowed h (by omega)
  exact ha ▸ target_reg p r

/-- Settles O12: STATUS and CTRL alone are always writable, and each is reached at its own offset only. -/
theorem busyWritesAreIgnored : Obligations.BusyWritesAreIgnored := by
  intro s addr n v rest hr hb hallowed hi
  refine ⟨fun hstatus hctrl => ?_, fun ha => ?_, fun ha => ?_⟩
  · obtain ⟨g, hg⟩ := exists_target_of_allowed hallowed
    refine step_write_busy hr hb hi hg (Bool.eq_false_iff.2 fun hw => ?_)
    rcases (alwaysWritable_iff g).1 hw with rfl | rfl
    · exact hstatus (eq_offset_of_target_reg hg).2
    · exact hctrl (eq_offset_of_target_reg hg).2
  · exact ⟨_, step_write_always hr hi (target_of_allowed_reg (r := .status) hallowed ha) rfl, rfl⟩
  · exact step_write_always hr hi (target_of_allowed_reg (r := .ctrl) hallowed ha) rfl

/-! ## Reads -/

/-- A register without UNSPECIFIED bits reads as it stands (70_reset_and_hazards.md R246). -/
theorem readBusy_reg {r : Reg} (hr : regDrawMask r = 0) (s : State) (n : Width) :
    readBusy s n (.reg r) = readReg s r := by
  have hall : ~~~(0 : Word) = BitVec.allOnes 32 := by decide
  rw [readBusy, readStored, drawMask, hr, hall, BitVec.and_allOnes]
  simp

/-- The mask of TREE_VALID keeps one bit of a word. -/
theorem and_treeValidMask (w : Word) : w &&& 0x10 = BitVec.ofNat 32 (16 * bitNat (w.getLsbD 4)) := by
  have hmask : (0x10 : Word) = BitVec.twoPow 32 4 := by decide
  rw [hmask, BitVec.and_twoPow]
  cases w.getLsbD 4 <;> decide

/-- In a state of the invariant with BUSY = 1, STATUS reads BUSY and OVERRUN, and TREE_VALID as the draw has it. -/
theorem readBusy_status {s : State} (h : s.Inv) (hb : s.busy = true) (n : Width) :
    readBusy s n (.reg .status) = BitVec.ofNat 32
      (1 + 8 * bitNat s.overrun + 16 * bitNat ((Config.freeWord s.draws).getLsbD 4)) := by
  obtain ⟨hdone, herr, -, -⟩ := h.busyClean hb
  rw [readBusy, readStored, readReg, drawMask, regDrawMask, and_treeValidMask, statusWord, hb, hdone, herr]
  cases s.overrun <;> cases s.treeValid <;> cases (Config.freeWord s.draws).getLsbD 4 <;> decide

/-- Settles O13: the read answers `readBusy` of the register at the offset; the invariant has DONE, ERR, ERR_INFO and ERR_ARG 0
and BUF_BYTES legal. -/
theorem busyReads : Obligations.BusyReads := by
  intro s addr rest h hr hb hi hallowed
  rcases step_read_cases hr hi with ⟨hn, -⟩ | ⟨g, hg, -, e⟩ | ⟨-, -, hidle, -⟩
  · obtain ⟨g, hg⟩ := exists_target_of_allowed hallowed
    cases hg.symm.trans hn
  · have register (r : Reg) (ha : addr.toNat = r.offset) : g = .reg r :=
      Option.some.inj (hg.symm.trans (target_of_allowed_reg hallowed ha))
    have reads (r : Reg) (hmask : regDrawMask r = 0) (ha : addr.toNat = r.offset) : readBusy s .w4 g = readReg s r :=
      register r ha ▸ readBusy_reg hmask s .w4
    obtain ⟨-, -, hinfo, harg⟩ := h.busyClean hb
    refine ⟨_, readBusy s .w4 g, e, rfl, fun ha => reads .id rfl ha, fun ha => reads .cmd rfl ha,
      fun ha => ⟨(Config.freeWord s.draws).getLsbD 4, ?_⟩, fun ha => ?_, fun ha => ?_, fun ha => ?_, fun ha => ?_,
      fun ha => ?_, fun ha => ?_, fun ha => ?_⟩
    · have ho := bitNat_le_one s.overrun
      have ht := bitNat_le_one ((Config.freeWord s.draws).getLsbD 4)
      rw [register .status ha, readBusy_status h hb, BitVec.toNat_ofNat]
      omega
    · have hirq := bitNat_le_one s.irqEn
      rw [reads .ctrl rfl ha, readReg, ctrlWord, BitVec.toNat_ofNat]
      omega
    · rw [reads .errInfo rfl ha, readReg, hinfo]
      rfl
    · rw [reads .errArg rfl ha, readReg, harg]
    · rw [reads .ftLen rfl ha]
      exact BitVec.toNat_setWidth_of_le (by decide)
    · rw [reads .srcLen rfl ha]
      exact BitVec.toNat_setWidth_of_le (by decide)
    · rw [reads .padIn rfl ha]
      exact BitVec.toNat_setWidth_of_le (by decide)
    · have hbuf := bufBytes_le h.params
      rw [reads .paramBufBytes rfl ha, readReg, ofNat_paramBufBytes, BitVec.toNat_ofNat]
      omega
  · cases hb.symm.trans hidle

end Sys2Proof.Machine
end

section
/-! PROOFS. Reset (70_reset_and_hazards.md R240, R241): the edges of rst_n, and the state that INIT begins in. -/

namespace Sys2Proof.Machine

/-! ## The edges of rst_n -/

theorem step_resetLow {s : State} {rest : List Input} (hr : s.rstN = true) (hi : s.inputs = .resetLow :: rest) :
    step s = .next (assertReset { s with inputs := rest }) := by
  simp [step, hi, resetLow, hr]

theorem step_resetHigh {s : State} {rest : List Input} (hr : s.rstN = false) (hi : s.inputs = .resetHigh :: rest) :
    step s = .next (enterInit { s with inputs := rest }) := by
  simp [step, hi, resetHigh, hr]

/-- A host transaction stops the model while rst_n is low (log entry 9). -/
theorem step_transaction_of_low {s : State} {addr : BitVec 18} {n : Width} {v : Word} {rest : List Input}
    (hr : s.rstN = false) (hi : s.inputs = .read addr n :: rest ∨ s.inputs = .write addr n v :: rest) :
    step s = .fault .transactionInReset := by
  rcases hi with hi | hi <;> simp [step, hi, hostTransaction, hr]

theorem sequencerMove_of_low {s : State} (hr : s.rstN = false) : sequencerMove s = .next s := by
  simp [sequencerMove, hr]

theorem sequencerMove_of_init {s : State} (hr : s.rstN = true) (hs : s.seq = .init) :
    sequencerMove s = .next (endInit s) := by
  simp [sequencerMove, hr, hs]

/-- rst_n going low puts SEQ to IDLE and may draw DST anew; every other register stays (log entry 9). -/
theorem assertReset_eq (s : State) :
    assertReset s = { s with
      rstN := false
      seq := .idle
      mem := (assertReset s).mem
      dstDraw := (assertReset s).dstDraw
      draws := (assertReset s).draws } := by
  unfold assertReset
  split
  · rfl
  · rfl
  · next hs => rw [← hs]

/-- Where a command was in progress, no byte of DST stays specified. -/
theorem assertReset_busy {s : State} {w : Word} (hs : s.seq = .busy w) :
    assertReset s = { unspecifyDst s with rstN := false, seq := .idle } := by
  simp [assertReset, hs]

/-- Settles O15, edge by edge: SRC lies below DST, which alone is drawn anew. -/
theorem resetStopsTheCommand : Obligations.ResetStopsTheCommand := by
  intro s rest
  refine ⟨fun hi hr => ⟨_, step_resetLow hr hi, assertReset_eq _, fun a ha => ?_, fun w hs a ha => ?_⟩,
    fun hr _ _ _ hi => step_transaction_of_low hr hi,
    fun hr hn => (step_sequencer s hn).trans (sequencerMove_of_low hr), fun hi hr => ⟨_, step_resetHigh hr hi, rfl, rfl⟩⟩
  · have hlow := resetLow_readByte { s with inputs := rest } ha
    rw [resetLow, if_pos hr] at hlow
    exact hlow.trans (readByte_congr s _ rfl rfl rfl a)
  · rw [assertReset_busy (s := { s with inputs := rest }) hs]
    exact (Memory.lookup_dropDst s.mem a).trans (if_neg (Nat.not_lt.2 ha))

/-! ## INIT -/

/-- Settles O16: `enterInit` takes its values from `State.reset`, whose tables are empty, and `endInit` touches SEQ only. -/
theorem initSetsTheResetValues : Obligations.InitSetsTheResetValues := by
  intro s rest
  constructor
  · intro hi hr
    exact ⟨_, step_resetHigh hr hi, rfl, rfl, rfl, rfl, rfl, rfl, rfl, rfl, rfl, rfl, rfl, rfl, rfl, rfl, rfl, rfl, rfl, rfl,
      ftAt_nil, ctAt_nil, nodeAt_nil, Sparse.lookup_nil, rfl⟩
  · intro hs hr hn
    exact ⟨(step_sequencer s hn).trans (sequencerMove_of_init hr hs), id⟩

/-! ## The invariant -/

theorem State.DataInv.reset : State.reset.DataInv where
  params := rfl
  memory := rfl
  buffers := rfl
  frequencyTable := rfl
  codeTable := canonicalTable_nil
  tree := fun hv => absurd hv Bool.false_ne_true
  noTree := fun _ => ⟨rfl, rfl, rfl⟩
  outLen := Nat.zero_le _
  totalBits := Nat.zero_le _
  drawsTaken := ⟨Nat.two_pos, Nat.one_lt_two⟩

/-- Settles O18: the data is empty, and control is as at the entry to INIT from a state without events whose next draw is 0. -/
theorem resetSatisfiesInvariant : Obligations.ResetSatisfiesInvariant :=
  (inv_iff _).2 ⟨.reset, .enterInit { State.reset with draws := 0 }⟩

end Sys2Proof.Machine
end
